-- ==== Sys2Proof/Word.lean ====
section
/-! DEFINITION. The word types: bytes, and register files of `w`-bit words (spec 00_scope.md R13, 10_state.md
R20, R21, R24). The word operations of 40_word_arithmetic.md are in Machine/Arith.lean. -/

namespace Sys2Proof

/-- A byte: 8 bits, an unsigned integer in `[0, 256)` (R13). -/
abbrev Byte := BitVec 8

/-- A register file of `n` registers, each `w` bits wide (R20, R21, R24). -/
abbrev RegFile (w n : Nat) := Vector (BitVec w) n

end Sys2Proof
end

