-- ==== Sys2Proof/Machine/Arith.lean ====
section
/-! DEFINITION. The eight word operations of the add-rotate-xor-select unit (spec 40_word_arithmetic.md R90 to
R98). None writes a flag or raises an exception (R99). -/

namespace Sys2Proof.Machine

variable {w : Nat}

/-- `ADD`: `x +_w y`, modulo `2^w` (R91). -/
def addW (x y : BitVec w) : BitVec w := x + y

/-- `ROTL_w(x, n)`, for `0 < n < w` (R92; log 17). -/
def rotlW (x : BitVec w) (n : Nat) : BitVec w := x.rotateLeft n

/-- `ROTR_w(x, n)`, for `0 < n < w` (R93; log 17). -/
def rotrW (x : BitVec w) (n : Nat) : BitVec w := x.rotateRight n

/-- `SHR_w(x, n)`, the logical right shift, for `0 < n < w` (R94). -/
def shrW (x : BitVec w) (n : Nat) : BitVec w := x >>> n

/-- `AND` (R95). -/
def andW (x y : BitVec w) : BitVec w := x &&& y

/-- `OR` (R96). -/
def orW (x y : BitVec w) : BitVec w := x ||| y

/-- `XOR` (R97). -/
def xorW (x y : BitVec w) : BitVec w := x ^^^ y

/-- `NOT`: the complement of each of the `w` bits and of no other (R98). -/
def notW (x : BitVec w) : BitVec w := ~~~x

end Sys2Proof.Machine
end

