-- ==== Sys2Proof/Syntax.lean ====
section
/-! DEFINITION. The commands of the command port (spec 30_encoding.md R71 to R74, opcode_table.json): one
constructor per row of the table. -/

namespace Sys2Proof

/-- One accepted command. Format `C` (R71) has no operand: its block field is ignored. Format `B` carries one
block, its bytes in message order, `BLK[0]` first (20_memory.md R51). The four reserved codes (R74) are
constructors of their own, since an accepted command with one of them has an effect: it raises `ILLEGAL_CMD`. -/
inductive Instr
  /-- `000`, `NOP` (45_commands.md R171) -/
  | nop
  /-- `001`, `INIT` (45_commands.md R172) -/
  | init
  /-- `010`, `NEXT` (45_commands.md R174) -/
  | next (block : List Byte)
  /-- `110`, `NEXTL` (45_commands.md R175) -/
  | nextl (block : List Byte)
  /-- `011`, reserved (R74) -/
  | reserved011
  /-- `100`, reserved (R74) -/
  | reserved100
  /-- `101`, reserved (R74) -/
  | reserved101
  /-- `111`, reserved (R74) -/
  | reserved111
deriving DecidableEq, Repr

end Sys2Proof
end

