-- ==== Sys2Proof/WellFormed.lean ====
section
/-! DEFINITION. Which commands the port of an instance with blocks of `bs` bytes can present. -/

namespace Sys2Proof

/-- The one check: the block operand of format `B` is exactly `bs` bytes long (20_memory.md R54: "A block operand
of any other size than `bs` bytes cannot be presented"). -/
def Instr.wellFormed (bs : Nat) : Instr → Bool
  | .nop => true
  | .init => true
  | .next block => block.length == bs
  | .nextl block => block.length == bs
  | .reserved011 => true
  | .reserved100 => true
  | .reserved101 => true
  | .reserved111 => true

end Sys2Proof
end

