-- ==== Sys2Proof/Decode.lean ====
section
/-! DEFINITION. From command words to commands and back (spec 30_encoding.md R70 to R75), with the byte-order
helpers they use (20_memory.md R51 to R53). -/

namespace Sys2Proof

/-! ### Byte order (R52, R53) -/

/-- The unsigned integer of a byte sequence, the first byte most significant. -/
def beNat (bytes : List Byte) : Nat := bytes.foldl (fun acc b => acc * 256 + b.toNat) 0

/-- `be(n, v)` of 41_padding.md R111: the `n` bytes of `v`, the most significant first, for `v < 2^(8*n)`; of a larger
`v` the low `n` bytes (log 17). -/
def be (n v : Nat) : List Byte := (List.range n).map fun k => BitVec.ofNat 8 (v / 256 ^ (n - 1 - k))

/-! ### The command word (R71) -/

/-- `CW = 3 + 8*bs`, the width of every command word (R71). -/
abbrev cmdWidth (bs : Nat) : Nat := 3 + 8 * bs

/-- `cmd_op`, the top three bits of the command word (R71). -/
def cmdOp {bs : Nat} (cmd : BitVec (cmdWidth bs)) : BitVec 3 := cmd.extractLsb' (8 * bs) 3

/-- `cmd_block`, the low `8*bs` bits of the command word (R71). -/
def cmdBlock {bs : Nat} (cmd : BitVec (cmdWidth bs)) : BitVec (8 * bs) := cmd.extractLsb' 0 (8 * bs)

/-- `cmd = cmd_op ‖ cmd_block` (R71). -/
def cmdWord {bs : Nat} (op : BitVec 3) (block : BitVec (8 * bs)) : BitVec (cmdWidth bs) := op ++ block

/-- The strobe `init = cmd_op[0]` (R71). -/
def opInit (op : BitVec 3) : Bool := op.getLsbD 0

/-- The strobe `next = cmd_op[1]` (R71). -/
def opNext (op : BitVec 3) : Bool := op.getLsbD 1

/-- The strobe `last = cmd_op[2]` (R71). -/
def opLast (op : BitVec 3) : Bool := op.getLsbD 2

/-- `BLK[j] = cmd_block[8*(bs-j)-1 : 8*(bs-j-1)]` (R72, 20_memory.md R51). -/
def blockByte {bs : Nat} (block : BitVec (8 * bs)) (j : Nat) : Byte := block.extractLsb' (8 * (bs - j - 1)) 8

/-- The whole operand, `BLK[0] … BLK[bs-1]` (R72). -/
def blockBytes {bs : Nat} (block : BitVec (8 * bs)) : List Byte := (List.range bs).map (blockByte block)

/-- The block field that carries these bytes, `BLK[0]` most significant (20_memory.md R51). -/
def blockBits (bs : Nat) (bytes : List Byte) : BitVec (8 * bs) := BitVec.ofNat (8 * bs) (beNat bytes)

/-! ### Decoding (R73, R74) -/

/-- The opcode map: the three operation bits and nothing else select the command (R73). -/
def decodeOp (op : BitVec 3) (block : List Byte) : Instr :=
  if op = 0b000#3 then .nop
  else if op = 0b001#3 then .init
  else if op = 0b010#3 then .next block
  else if op = 0b011#3 then .reserved011
  else if op = 0b100#3 then .reserved100
  else if op = 0b101#3 then .reserved101
  else if op = 0b110#3 then .nextl block
  else .reserved111

/-- The command an accepted command word stands for. Total: every word of `CW` bits is a command (45_commands.md
R170). -/
def decode (bs : Nat) (cmd : BitVec (cmdWidth bs)) : Instr :=
  decodeOp (cmdOp cmd) (blockBytes (cmdBlock cmd))

/-- Why a string of bits is no command word. -/
inductive DecodeError
  /-- It has not `CW` bits: "every command word of an instance has the one length `CW`" (R75). -/
  | wordLength
deriving DecidableEq, Repr

/-- The unsigned integer of a bit string, the first bit most significant. -/
def bitsNat (bits : List Bool) : Nat := bits.foldl (fun acc b => acc * 2 + b.toNat) 0

/-- The decoder on any string of bits, the first bit being `cmd[CW-1]`: a string of another length than `CW` is
refused by name (R71, R75). -/
def decodeBits (bs : Nat) (bits : List Bool) : Except DecodeError Instr :=
  if bits.length = cmdWidth bs then .ok (decode bs (BitVec.ofNat (cmdWidth bs) (bitsNat bits)))
  else .error .wordLength

/-! ### Encoding (R73, R76) -/

/-- The operation code of each command (R73, R74). -/
def Instr.opcode : Instr → BitVec 3
  | .nop => 0b000#3
  | .init => 0b001#3
  | .next _ => 0b010#3
  | .nextl _ => 0b110#3
  | .reserved011 => 0b011#3
  | .reserved100 => 0b100#3
  | .reserved101 => 0b101#3
  | .reserved111 => 0b111#3

/-- The block operand a command carries; none in format `C` and in the reserved codes. -/
def Instr.operand : Instr → List Byte
  | .nop => []
  | .init => []
  | .next block => block
  | .nextl block => block
  | .reserved011 => []
  | .reserved100 => []
  | .reserved101 => []
  | .reserved111 => []

/-- The command word of a command: `cmd_op`, then the block, "all zero for format `C`, where the field is ignored"
(R76); zero for the reserved codes too (log 13). -/
def encode (bs : Nat) (i : Instr) : BitVec (cmdWidth bs) := cmdWord i.opcode (blockBits bs i.operand)

/-! ### The opcode table's numbering -/

/-- The command word whose bits the opcode table numbers as `w`: bits 2..0 are `cmd_op[2:0]`, and a later bit
`3 + j` is `cmd_block[j]`; every bit from `nbits` up is 0 (log 6). -/
def tableWord (bs nbits w : Nat) : BitVec (cmdWidth bs) :=
  let bits := w % 2 ^ nbits
  cmdWord (BitVec.ofNat 3 bits) (BitVec.ofNat (8 * bs) (bits / 8))

/-- The command that the decoder of `sha1_core` (`bs = 64`) reads from a row's word, numbered as the table numbers
it (log 6). -/
def decodeTableWord (nbits w : Nat) : Option Instr := some (decode 64 (tableWord 64 nbits w))

end Sys2Proof
end

