-- ==== Sys2Proof/Config.lean ====
section
/-! DEFINITION. What is fixed when an instance is built (spec 00_scope.md R5, R7) and the values the spec leaves
free (00_scope.md R15, 93_implementation_defined.md U2, U3, U14). A free value is an opaque constant: no proof
can see what it is. The well-formedness check and the two standard descriptors are in Machine/Descriptor.lean. -/

namespace Sys2Proof

/-- The family tag `fam`, a closed tagged variant of exactly two values (R7). -/
inductive Family
  | sha1
  | sha2_64
deriving DecidableEq, Repr

/-- The fields of a Family Descriptor `F` as they are supplied at construction (R5), before any check: sizes are
naturals and the tables hold integers ("the hardware receives integers, not literals"). -/
structure RawDescriptor where
  fam : Family
  /-- word size in bytes -/
  ws : Nat
  /-- count of hash-state words -/
  nh : Nat
  /-- count of round constants -/
  nk : Nat
  /-- number of rounds -/
  nr : Nat
  /-- block size in bytes -/
  bs : Nat
  /-- length-field width in bytes -/
  lw : Nat
  /-- Initial Hash Values -/
  IV : List Nat
  /-- Round Constants -/
  K : List Nat
deriving DecidableEq, Repr

/-- The register files, as names for the free values a RESET event leaves in them. -/
inductive RegFileName
  | H
  | V
  | W
deriving DecidableEq, Repr

/-- The two output ports whose value is unspecified while `digest_valid = 0` (10_state.md R29, 44_serialization.md
R164). -/
inductive PortName
  | digest
  | digestHex
deriving DecidableEq, Repr

namespace Config

/-- FREE VALUE (log 3): what register `i` of a register file holds after the `k`-th RESET event of a run, the
spec's `⊥` (10_state.md R39, 93_implementation_defined.md U3). -/
opaque resetWord (w : Nat) (k : Nat) (file : RegFileName) (i : Nat) : BitVec w

/-- FREE VALUE (log 4): what an unspecified output port carries at the observation numbered `obs`, "possibly
different at each observation" (00_scope.md R15). -/
opaque unspecifiedPort (port : PortName) (width : Nat) (obs : Nat) : BitVec width

/-- The open parameter of decision D28, less one (log 16). -/
opaque latencyLessOne (F : RawDescriptor) (op : BitVec 3) : Nat

/-- `latency(F, op)`, a positive natural number of implementation clock cycles (92_eei_decisions.md D28). No rule
reads it and no definition of the model does (70_reset_and_hazards.md R221). -/
def latency (F : RawDescriptor) (op : BitVec 3) : Nat := latencyLessOne F op + 1

end Config

end Sys2Proof
end

