-- ==== Sys2Proof/Machine/Descriptor.lean ====
section
/-! DEFINITION. The Family Descriptor of a built instance (spec 00_scope.md R5 to R11): derived quantities,
well-formedness `WF(F)`, the constant tables (10_state.md R31 to R36) and the two standard descriptors. -/

namespace Sys2Proof

namespace RawDescriptor

/-! ### Derived quantities (R6) -/

/-- `w = 8*ws`, the word width in bits. -/
def w (F : RawDescriptor) : Nat := 8 * F.ws

/-- `cc = bs/ws`, the schedule copy count. -/
def cc (F : RawDescriptor) : Nat := F.bs / F.ws

/-- `dbits = nh*w`, the digest width in bits. -/
def dbits (F : RawDescriptor) : Nat := F.nh * F.w

/-- `dlen = 2*ws*nh`, the digest length in hexadecimal characters. -/
def dlen (F : RawDescriptor) : Nat := 2 * F.ws * F.nh

/-- `lbits = 8*lw`, the width of the length field in bits. -/
def lbits (F : RawDescriptor) : Nat := 8 * F.lw

/-! ### Well-formedness (R8 to R10) -/

/-- The document's part (R8): the two invariants, the lengths of the tables and the range of their entries. -/
def wfDocument (F : RawDescriptor) : Bool :=
  F.bs % F.ws == 0 && decide (F.cc ≤ F.nr) && F.IV.length == F.nh && F.K.length == F.nk
    && F.IV.all (fun v => decide (v < 2 ^ F.w)) && F.K.all (fun v => decide (v < 2 ^ F.w))

/-- The added part for `fam = SHA1` (R9). -/
def wfSha1 (F : RawDescriptor) : Bool :=
  F.ws == 4 && F.nh == 5 && F.cc == 16 && F.bs == 64 && decide (F.nr ≤ 80)
    && decide ((F.nr - 1) / 20 + 1 ≤ F.nk)

/-- The added part for `fam = SHA2_64` (R10). -/
def wfSha2 (F : RawDescriptor) : Bool :=
  F.ws == 8 && F.nh == 8 && decide (16 ≤ F.cc) && decide (F.nr ≤ F.nk)

/-- The length field, for both families: `1 <= lw <= bs` (R9, R10). -/
def wfLength (F : RawDescriptor) : Bool := decide (1 ≤ F.lw) && decide (F.lw ≤ F.bs)

/-- `WF(F)`, the conjunction of R8, R9 and R10. -/
def wellFormed (F : RawDescriptor) : Bool :=
  F.wfDocument && F.wfLength &&
    match F.fam with
    | .sha1 => F.wfSha1
    | .sha2_64 => F.wfSha2

end RawDescriptor

/-- The descriptor of a built instance: well-formed fields ("`CORE` takes a descriptor together with a proof of
`WF(F)`", 60_exceptions.md R192). -/
structure Descriptor extends RawDescriptor where
  wf : toRawDescriptor.wellFormed = true
deriving DecidableEq, Repr

namespace Descriptor

/-- `IV[i]` as a word (10_state.md R31). -/
def iv (F : Descriptor) (i : Nat) : BitVec F.w := BitVec.ofNat F.w (F.IV.getD i 0)

/-- `K[i]` as a word (10_state.md R31). -/
def k (F : Descriptor) (i : Nat) : BitVec F.w := BitVec.ofNat F.w (F.K.getD i 0)

end Descriptor

/-! ### The constant tables (10_state.md R33 to R36; log 19) -/

/-- `F_SHA1.IV` (R33). -/
def sha1IV : List Nat := [0x67452301, 0xEFCDAB89, 0x98BADCFE, 0x10325476, 0xC3D2E1F0]

/-- `F_SHA1.K`, indexed by band (R34). -/
def sha1K : List Nat := [0x5A827999, 0x6ED9EBA1, 0x8F1BBCDC, 0xCA62C1D6]

/-- `F_SHA512.IV` (R35). -/
def sha512IV : List Nat :=
  [0x6a09e667f3bcc908, 0xbb67ae8584caa73b, 0x3c6ef372fe94f82b, 0xa54ff53a5f1d36f1,
   0x510e527fade682d1, 0x9b05688c2b3e6c1f, 0x1f83d9abfb41bd6b, 0x5be0cd19137e2179]

/-- The first ten rows, `K[0]` to `K[39]`, of the table `F_SHA512.K` (R36). -/
def sha512KRowsLow : List (List Nat) :=
  [[0x428a2f98d728ae22, 0x7137449123ef65cd, 0xb5c0fbcfec4d3b2f, 0xe9b5dba58189dbbc],
   [0x3956c25bf348b538, 0x59f111f1b605d019, 0x923f82a4af194f9b, 0xab1c5ed5da6d8118],
   [0xd807aa98a3030242, 0x12835b0145706fbe, 0x243185be4ee4b28c, 0x550c7dc3d5ffb4e2],
   [0x72be5d74f27b896f, 0x80deb1fe3b1696b1, 0x9bdc06a725c71235, 0xc19bf174cf692694],
   [0xe49b69c19ef14ad2, 0xefbe4786384f25e3, 0x0fc19dc68b8cd5b5, 0x240ca1cc77ac9c65],
   [0x2de92c6f592b0275, 0x4a7484aa6ea6e483, 0x5cb0a9dcbd41fbd4, 0x76f988da831153b5],
   [0x983e5152ee66dfab, 0xa831c66d2db43210, 0xb00327c898fb213f, 0xbf597fc7beef0ee4],
   [0xc6e00bf33da88fc2, 0xd5a79147930aa725, 0x06ca6351e003826f, 0x142929670a0e6e70],
   [0x27b70a8546d22ffc, 0x2e1b21385c26c926, 0x4d2c6dfc5ac42aed, 0x53380d139d95b3df],
   [0x650a73548baf63de, 0x766a0abb3c77b2a8, 0x81c2c92e47edaee6, 0x92722c851482353b]]

/-- The last ten rows, `K[40]` to `K[79]`, of the table `F_SHA512.K` (R36). -/
def sha512KRowsHigh : List (List Nat) :=
  [[0xa2bfe8a14cf10364, 0xa81a664bbc423001, 0xc24b8b70d0f89791, 0xc76c51a30654be30],
   [0xd192e819d6ef5218, 0xd69906245565a910, 0xf40e35855771202a, 0x106aa07032bbd1b8],
   [0x19a4c116b8d2d0c8, 0x1e376c085141ab53, 0x2748774cdf8eeb99, 0x34b0bcb5e19b48a8],
   [0x391c0cb3c5c95a63, 0x4ed8aa4ae3418acb, 0x5b9cca4f7763e373, 0x682e6ff3d6b2b8a3],
   [0x748f82ee5defb2fc, 0x78a5636f43172f60, 0x84c87814a1f0ab72, 0x8cc702081a6439ec],
   [0x90befffa23631e28, 0xa4506cebde82bde9, 0xbef9a3f7b2c67915, 0xc67178f2e372532b],
   [0xca273eceea26619c, 0xd186b8c721c0c207, 0xeada7dd6cde0eb1e, 0xf57d4f7fee6ed178],
   [0x06f067aa72176fba, 0x0a637dc5a2c898a6, 0x113f9804bef90dae, 0x1b710b35131c471b],
   [0x28db77f523047d84, 0x32caab7b40c72493, 0x3c9ebe0a15c9bebc, 0x431d67c49c100d4c],
   [0x4cc5d4becb3e42b6, 0x597f299cfc657e2a, 0x5fcb6fab3ad6faec, 0x6c44198c4a475817]]

/-- `F_SHA512.K`, one word per round: row by row, and left to right in a row (R36). -/
def sha512K : List Nat := (sha512KRowsLow ++ sha512KRowsHigh).flatten

/-! ### The standard descriptors (R5, R11) -/

/-- The fields of `F_SHA1` (R5). -/
def rawSha1 : RawDescriptor where
  fam := .sha1
  ws := 4
  nh := 5
  nk := 4
  nr := 80
  bs := 64
  lw := 8
  IV := sha1IV
  K := sha1K

/-- The fields of `F_SHA512` (R5). -/
def rawSha512 : RawDescriptor where
  fam := .sha2_64
  ws := 8
  nh := 8
  nk := 80
  nr := 80
  bs := 128
  lw := 16
  IV := sha512IV
  K := sha512K

/-- `F_SHA1`, the descriptor of `sha1_core` (R11). -/
def fSha1 : Descriptor := ⟨rawSha1, by decide⟩

/-- `F_SHA512`, the descriptor of `sha512_core` (R11). -/
def fSha512 : Descriptor := ⟨rawSha512, by decide⟩

end Sys2Proof
end

