-- ==== Sys2Proof/Machine/Operands.lean ====
section
/-! DEFINITION. The one operand of the engine, the block `BLK[0..bs-1]`, and its big-endian reads and writes (spec
20_memory.md R50 to R55, 00_scope.md R14). -/

namespace Sys2Proof.Machine

/-- `MemRead(addr, n)`: the big-endian unsigned integer of the `n` bytes at `addr` of the block (R52), for `n >= 1` and
`addr + n <= bs`. DESIGN CHOICE (log 17): no rule reads past the end, and there the absent bytes are left out; no rule
reads 0 bytes, and that gives 0. -/
def memRead (block : List Byte) (addr n : Nat) : Nat := beNat ((block.drop addr).take n)

/-- `MemWrite(addr, n, v)`: byte `addr+k` receives `v[8*(n-k)-1 : 8*(n-k-1)]` (00_scope.md R14). Defined there for
completeness: no rule of the engine uses it. For `addr + n <= bs`; a write past the end of the block is given no effect
by the spec, and there the bytes that do not fit lengthen the block: DESIGN CHOICE (log 17). -/
def memWrite (block : List Byte) (addr n v : Nat) : List Byte :=
  block.take addr ++ be n v ++ block.drop (addr + n)

/-- Word `k` of the block as the scheduler decodes it, `MemRead(ws*k, ws)` (42_schedule.md R121). -/
def blockWord (F : Descriptor) (block : List Byte) (k : Nat) : BitVec F.w :=
  BitVec.ofNat F.w (memRead block (F.ws * k) F.ws)

end Sys2Proof.Machine
end

