-- ==== Sys2Proof/Machine/RegFile.lean ====
section
/-! DEFINITION. Access to register files, always a whole word at a time (spec 10_state.md R22). -/

namespace Sys2Proof.Machine

namespace RegFile

variable {w n : Nat}

/-- Read register `i`. No rule reads an index from `n` up; there the value is 0 (log 17). -/
def get (r : RegFile w n) (i : Nat) : BitVec w := r.getD i 0

/-- Write register `i`. No rule writes an index from `n` up; there nothing changes (log 17). -/
def put (r : RegFile w n) (i : Nat) (v : BitVec w) : RegFile w n := r.setIfInBounds i v

/-- All registers at once from a function of the index. -/
def ofFn (f : Nat → BitVec w) : RegFile w n := Vector.ofFn fun i => f i

/-- All registers at once from a list of words, register 0 first. -/
def ofWords (xs : List (BitVec w)) : RegFile w n := ofFn fun i => xs.getD i 0

end RegFile

end Sys2Proof.Machine
end

