-- ==== Sys2Proof/Machine/Schedule.lean ====
section
/-! DEFINITION. The message scheduler (spec 42_schedule.md R120 to R128): `DECODE`, `EXPAND1`, `EXPAND2`, `σ0`, `σ1`
and `sched`. -/

namespace Sys2Proof.Machine

/-- One write of `DECODE`: `W[k] <- MemRead(ws*k, ws)` (R121). -/
def decodeWord (F : Descriptor) (block : List Byte) (W : RegFile F.w F.nr) (k : Nat) : RegFile F.w F.nr :=
  RegFile.put W k (blockWord F block k)

/-- The word `EXPAND1(i)` writes, from the schedule so far (R123). -/
def expandWord1 {w n : Nat} (W : RegFile w n) (i : Nat) : BitVec w :=
  rotlW (xorW (xorW (xorW (RegFile.get W (i - 3)) (RegFile.get W (i - 8))) (RegFile.get W (i - 14)))
    (RegFile.get W (i - 16))) 1

/-- `σ0` (R124). -/
def smallSigma0 {w : Nat} (x : BitVec w) : BitVec w := xorW (xorW (rotrW x 1) (rotrW x 8)) (shrW x 7)

/-- `σ1` (R125). -/
def smallSigma1 {w : Nat} (x : BitVec w) : BitVec w := xorW (xorW (rotrW x 19) (rotrW x 61)) (shrW x 6)

/-- The word `EXPAND2(i)` writes, from the schedule so far (R126). -/
def expandWord2 {w n : Nat} (W : RegFile w n) (i : Nat) : BitVec w :=
  addW (addW (addW (smallSigma1 (RegFile.get W (i - 2))) (RegFile.get W (i - 7)))
    (smallSigma0 (RegFile.get W (i - 15)))) (RegFile.get W (i - 16))

/-- The word the family's recurrence gives for index `i` (R127). -/
def expandWord (F : Descriptor) (W : RegFile F.w F.nr) (i : Nat) : BitVec F.w :=
  match F.fam with
  | .sha1 => expandWord1 W i
  | .sha2_64 => expandWord2 W i

/-- `EXPAND1(i)` or `EXPAND2(i)`, by the family (R123, R126). -/
def expand (F : Descriptor) (W : RegFile F.w F.nr) (i : Nat) : RegFile F.w F.nr :=
  RegFile.put W i (expandWord F W i)

/-- The indices of the copied words, `0 … cc-1` (R121). -/
def decodeIndices (F : Descriptor) : List Nat := List.range F.cc

/-- The indices of the derived words, `cc … nr-1`, increasing (R122). -/
def expandIndices (F : Descriptor) : List Nat := List.range' F.cc (F.nr - F.cc)

/-- `DECODE` and the expansion, written over a register file with the given former content (R127). -/
def schedOver (F : Descriptor) (block : List Byte) (W : RegFile F.w F.nr) : RegFile F.w F.nr :=
  (expandIndices F).foldl (expand F) ((decodeIndices F).foldl (decodeWord F block) W)

/-- `sched(F, B)` (R127): a function of `F` and the block alone, "the former content of `W` has no influence". -/
def sched (F : Descriptor) (block : List Byte) : RegFile F.w F.nr :=
  schedOver F block (RegFile.ofFn fun _ => 0)

end Sys2Proof.Machine
end

