-- ==== Sys2Proof/Machine/Compress.lean ====
section
/-! DEFINITION. The compression round operator and the block function (spec 43_compression.md R135 to R151). -/

namespace Sys2Proof.Machine

variable {w : Nat}

/-! ### SHA-1 (R137 to R141) -/

/-- `band(t) = floor(t / 20)` (R137). -/
def band (t : Nat) : Nat := t / 20

/-- `F_CH(b,c,d) = (b & c) | (~b & d)`, the select function (R138). -/
def fCh (b c d : BitVec w) : BitVec w := orW (andW b c) (andW (notW b) d)

/-- `F_PAR(b,c,d) = b ^ c ^ d`, parity (R138). -/
def fPar (b c d : BitVec w) : BitVec w := xorW (xorW b c) d

/-- `F_MAJ(b,c,d) = (b & c) | (b & d) | (c & d)`, majority (R138). -/
def fMaj (b c d : BitVec w) : BitVec w := orW (orW (andW b c) (andW b d)) (andW c d)

/-- The nonlinear function of a band (R139). `WF(F)` keeps the band at most 3. -/
def fBand (bnd : Nat) (b c d : BitVec w) : BitVec w :=
  match bnd with
  | 0 => fCh b c d
  | 1 => fPar b c d
  | 2 => fMaj b c d
  | _ => fPar b c d

/-- `ROUND1(t)` on the working variables, `Wt` being `W[t]` and `Kt` being `K[band(t)]` (R141). -/
def round1 {n : Nat} (t : Nat) (Wt Kt : BitVec w) (V : RegFile w n) : RegFile w n :=
  let a := RegFile.get V 0
  let b := RegFile.get V 1
  let c := RegFile.get V 2
  let d := RegFile.get V 3
  let e := RegFile.get V 4
  let temp := addW (addW (addW (addW (rotlW a 5) (fBand (band t) b c d)) e) Kt) Wt
  RegFile.ofWords [temp, a, rotlW b 30, c, d]

/-! ### The 64-bit SHA-2 variant (R142 to R148) -/

/-- `Ch(x,y,z) = (x & y) ^ (~x & z)` (R142). -/
def ch (x y z : BitVec w) : BitVec w := xorW (andW x y) (andW (notW x) z)

/-- `Maj(x,y,z) = (x & y) ^ (x & z) ^ (y & z)` (R143). -/
def maj (x y z : BitVec w) : BitVec w := xorW (xorW (andW x y) (andW x z)) (andW y z)

/-- `Σ0` (R144). -/
def bigSigma0 (x : BitVec w) : BitVec w := xorW (xorW (rotrW x 28) (rotrW x 34)) (rotrW x 39)

/-- `Σ1` (R145). -/
def bigSigma1 (x : BitVec w) : BitVec w := xorW (xorW (rotrW x 14) (rotrW x 18)) (rotrW x 41)

/-- `T1 = h + Σ1(e) + Ch(e,f,g) + K[t] + W[t]` (R146). -/
def t1 (e f g h Kt Wt : BitVec w) : BitVec w := addW (addW (addW (addW h (bigSigma1 e)) (ch e f g)) Kt) Wt

/-- `T2 = Σ0(a) + Maj(a,b,c)` (R147). -/
def t2 (a b c : BitVec w) : BitVec w := addW (bigSigma0 a) (maj a b c)

/-- `ROUND2(t)` on the working variables, `Wt` being `W[t]` and `Kt` being `K[t]` (R148). -/
def round2 {n : Nat} (Wt Kt : BitVec w) (V : RegFile w n) : RegFile w n :=
  let a := RegFile.get V 0
  let b := RegFile.get V 1
  let c := RegFile.get V 2
  let d := RegFile.get V 3
  let e := RegFile.get V 4
  let f := RegFile.get V 5
  let g := RegFile.get V 6
  let h := RegFile.get V 7
  let T1 := t1 e f g h Kt Wt
  let T2 := t2 a b c
  RegFile.ofWords [addW T1 T2, a, b, c, addW d T1, e, f, g]

/-! ### Rounds, seeding, folding, the block function -/

/-- The index of the round constant of round `t`: the band for `SHA1` (R140), the round for `SHA2_64` (R148). -/
def kIndex (fam : Family) (t : Nat) : Nat :=
  match fam with
  | .sha1 => band t
  | .sha2_64 => t

/-- Round `t` with the schedule word `Wt`: `ROUND1(t)` or `ROUND2(t)`, by the family (R135). -/
def roundOp (F : Descriptor) (t : Nat) (Wt : BitVec F.w) (V : RegFile F.w F.nh) : RegFile F.w F.nh :=
  match F.fam with
  | .sha1 => round1 t Wt (F.k (kIndex .sha1 t)) V
  | .sha2_64 => round2 Wt (F.k (kIndex .sha2_64 t)) V

/-- The indices of the rounds, `0 … nr-1`, increasing (R150). -/
def roundIndices (F : Descriptor) : List Nat := List.range F.nr

/-- All rounds, over a schedule (R150). -/
def rounds (F : Descriptor) (W : RegFile F.w F.nr) (V : RegFile F.w F.nh) : RegFile F.w F.nh :=
  (roundIndices F).foldl (fun V t => roundOp F t (RegFile.get W t) V) V

/-- `FOLD` as a function: `H[i] +_w V[i]`, each word on its own (R149). -/
def foldWords {n : Nat} (H V : RegFile w n) : RegFile w n :=
  RegFile.ofFn fun i => addW (RegFile.get H i) (RegFile.get V i)

/-- `compress(F, h, B)` (R150), a pure function of its arguments (R151). -/
def compress (F : Descriptor) (h : RegFile F.w F.nh) (block : List Byte) : RegFile F.w F.nh :=
  foldWords h (rounds F (sched F block) h)

/-- `fold(h, blocks)`: the chain of `compress` over the blocks (45_commands.md R178). -/
def chain (F : Descriptor) (h : RegFile F.w F.nh) (blocks : List (List Byte)) : RegFile F.w F.nh :=
  blocks.foldl (compress F) h

end Sys2Proof.Machine
end

