-- ==== Sys2Proof/Machine/State.lean ====
section
/-! DEFINITION. The state of an engine instance (spec 10_state.md R20 to R30, R37, R39), the events at its inputs,
the reasons a step can stop, and the machine after reset. -/

namespace Sys2Proof.Machine

/-- The four values of the phase register `PH` (R25). -/
inductive Phase
  | idle
  | pending
  | compressed
  | final
deriving DecidableEq, Repr

/-- The values of the cause field `CAUSE` that occur (60_exceptions.md R194): codes `0b011` to `0b111` are "never
produced" (log 8). -/
inductive Cause
  | none
  | illegalCmd
  | phase
deriving DecidableEq, Repr

/-- The state of `CORE(F)` (R39): the phase register, the fault flag and cause, the running digest `H`, the working
variables `V` and the message schedule `W`. -/
structure CoreState (F : Descriptor) where
  PH : Phase
  ERR : Bool
  CAUSE : Cause
  H : RegFile F.w F.nh
  V : RegFile F.w F.nh
  W : RegFile F.w F.nr
deriving DecidableEq, Repr

/-- What the inputs of an instance with blocks of `bs` bytes carry at one command boundary (30_encoding.md R70,
70_reset_and_hazards.md R210; log 5, log 14). -/
inductive PortEvent (bs : Nat)
  /-- `cmd_valid = 0`: nothing is accepted -/
  | idle
  /-- `cmd_valid = 1` and `cmd_ready = 1`: this command word is accepted -/
  | command (cmd : BitVec (cmdWidth bs))
  /-- the event on the reset input -/
  | reset
deriving DecidableEq, Repr

/-- One engine instance and its surroundings. `F` is its configuration and no step writes it (00_scope.md R5);
`core` is the state the spec gives it. `port` and `resets` are the model's own: what the host will present at the
inputs, the next event first (log 5), and how many RESET events there have been, which indexes the free values
they leave (log 3). -/
structure State where
  F : Descriptor
  core : CoreState F
  port : List (PortEvent F.bs)
  resets : Nat
deriving DecidableEq, Repr

/-- Why a step stops with a fault. The engine's own faults `ILLEGAL_CMD` and `PHASE` are not here: the engine goes
on after them (60_exceptions.md R196, R197). -/
inductive Fault
  /-- Raised by the meaning of `NEXT` or `NEXTL` for a block that is not `bs` bytes long, when it would compress it:
  the port cannot present one (20_memory.md R54). `step` never raises it, since a decoded block has `bs` bytes.
  Safe: the model stops where the hardware has nothing to do (log 7). -/
  | blockWidth
deriving DecidableEq, Repr

/-- Why a step is refused. -/
inductive Refusal
  /-- Raised by `exec` for an instruction that has no meaning yet, by its mnemonic; no arm of `exec` raises it now.
  Safe: the model stops. -/
  | notModelled (mnemonic : String)
deriving DecidableEq, Repr

/-- The state of `CORE(F)` after reset (R39), `fill` giving the content of the registers that hold no value then
(`⊥`). -/
def CoreState.reset (F : Descriptor) (fill : RegFileName → Nat → BitVec F.w) : CoreState F where
  PH := .idle
  ERR := false
  CAUSE := .none
  H := Vector.ofFn fun i => fill .H i
  V := Vector.ofFn fun i => fill .V i
  W := Vector.ofFn fun i => fill .W i

/-- The instance with descriptor `F` right after reset, nothing presented at its inputs. The registers that hold
no value are 0: DESIGN CHOICE, unsafe (log 2). -/
def State.resetOf (F : Descriptor) : State where
  F := F
  core := CoreState.reset F fun _ _ => 0
  port := []
  resets := 0

/-- The machine right after reset: `sha1_core` (log 1). -/
def State.reset : State := State.resetOf fSha1

end Sys2Proof.Machine
end

