-- ==== Sys2Proof/Machine/Ops.lean ====
section
/-! DEFINITION. The shared operations of the sequencer: fault entry and exit (spec 60_exceptions.md R196 to R198),
the micro-operations (R173, 42_schedule.md, 43_compression.md), their order in a block (45_commands.md R176) and
the checks of a step (45_commands.md R170). -/

namespace Sys2Proof.Machine

variable {F : Descriptor}

/-! ### Faults -/

/-- Fault entry, `raise Fault(c)`: sets `ERR`, writes `CAUSE`, and changes nothing else (60_exceptions.md R196). -/
def raiseFault (cause : Cause) (s : State) : State :=
  { s with core := { s.core with ERR := true, CAUSE := cause } }

/-- The part of `INIT` that leaves a fault: clears `ERR` and `CAUSE` (60_exceptions.md R198, 45_commands.md
R172). -/
def leaveFault (c : CoreState F) : CoreState F := { c with ERR := false, CAUSE := .none }

/-! ### Micro-operations -/

/-- The words of the table `IV`, as a register file (10_state.md R31). -/
def ivFile (F : Descriptor) : RegFile F.w F.nh := RegFile.ofFn F.iv

/-- The steps the sequencer performs inside a command (30_encoding.md R78). -/
inductive MicroOp
  /-- `LOADIV` (45_commands.md R173) -/
  | loadiv
  /-- one of the `cc` writes of `DECODE`, to `W[k]` (42_schedule.md R121) -/
  | decode (k : Nat)
  /-- `EXPAND1(i)` or `EXPAND2(i)` (42_schedule.md R123, R126) -/
  | expand (i : Nat)
  /-- `SEED` (43_compression.md R136) -/
  | seed
  /-- `ROUND1(t)` or `ROUND2(t)` (43_compression.md R141, R148) -/
  | round (t : Nat)
  /-- `FOLD` (43_compression.md R149) -/
  | fold
deriving DecidableEq, Repr

/-- What a micro-operation reads and writes (10_state.md R22). -/
def MicroOp.run (block : List Byte) (c : CoreState F) : MicroOp → CoreState F
  | .loadiv => { c with H := ivFile F }
  | .decode k => { c with W := decodeWord F block c.W k }
  | .expand i => { c with W := Machine.expand F c.W i }
  | .seed => { c with V := c.H }
  | .round t => { c with V := roundOp F t (RegFile.get c.W t) c.V }
  | .fold => { c with H := foldWords c.H c.V }

/-- The micro-operations of one block in their order (45_commands.md R176); they depend on `F` only. -/
def blockOps (F : Descriptor) : List MicroOp :=
  (decodeIndices F).map .decode ++ (expandIndices F).map .expand ++ [.seed] ++ (roundIndices F).map .round ++ [.fold]

/-- `BLOCKSEQ(B)` (45_commands.md R176): the phase is `PENDING` while the block is processed. -/
def blockSeq (block : List Byte) (c : CoreState F) : CoreState F :=
  (blockOps F).foldl (MicroOp.run block) { c with PH := .pending }

/-! ### The checks of a step (45_commands.md R170) -/

/-- Step 3: with a fault latched the command is discarded without any state change (60_exceptions.md R197). -/
def unlessFaulted (s : State) (k : State → Host.Outcome State Fault Refusal) : Host.Outcome State Fault Refusal :=
  if s.core.ERR then .next s else k s

/-- Step 4: a reserved operation code raises `ILLEGAL_CMD` (60_exceptions.md R195). -/
def illegalCommand (s : State) : Host.Outcome State Fault Refusal :=
  unlessFaulted s fun s => .next (raiseFault .illegalCmd s)

/-- The phases in which a block is accepted (45_commands.md R174, R175). -/
def Phase.takesBlock : Phase → Bool
  | .idle => false
  | .pending => true
  | .compressed => true
  | .final => false

/-- Steps 5 to 7, common to `NEXT` and `NEXTL`: `PHASE` in `IDLE` and `FINAL` (60_exceptions.md R195), otherwise
`BLOCKSEQ(B)` and then the phase `after` (45_commands.md R174, R175). A block the port cannot present stops the
machine by name (log 7). -/
def compressThen (after : Phase) (block : List Byte) (s : State) : Host.Outcome State Fault Refusal :=
  unlessFaulted s fun s =>
    if s.core.PH.takesBlock then
      if block.length = s.F.bs then .next { s with core := { blockSeq block s.core with PH := after } }
      else .fault .blockWidth
    else .next (raiseFault .phase s)

end Sys2Proof.Machine
end

