-- ==== Sys2Proof/Machine/Block.lean ====
section
/-! DEFINITION. The commands of format `B` (spec 45_commands.md R174, R175). -/

namespace Sys2Proof.Machine

/-- `NEXT`: compresses a block that is not the last of its message (R174). -/
def execNext (block : List Byte) (s : State) : Host.Outcome State Fault Refusal := compressThen .compressed block s

/-- `NEXTL`: compresses the last block of a message and finalises the digest (R175). -/
def execNextl (block : List Byte) (s : State) : Host.Outcome State Fault Refusal := compressThen .final block s

end Sys2Proof.Machine
end

