-- ==== Sys2Proof/Machine/Control.lean ====
section
/-! DEFINITION. The commands of format `C` (spec 45_commands.md R171, R172). -/

namespace Sys2Proof.Machine

/-- `NOP`: no effect, in every phase and with `ERR` either way (R171). -/
def execNop (s : State) : Host.Outcome State Fault Refusal := .next s

/-- `INIT`: `LOADIV`, then `ERR` and `CAUSE` cleared, then `PH <- PENDING`, in every phase and with `ERR` either way;
`V` and `W` are not written (R172). -/
def execInit (s : State) : Host.Outcome State Fault Refusal :=
  .next { s with core := { leaveFault (MicroOp.run [] s.core .loadiv) with PH := .pending } }

end Sys2Proof.Machine
end

