-- ==== Sys2Proof/Machine/Reserved.lean ====
section
/-! DEFINITION. The reserved operation codes: each raises `ILLEGAL_CMD` and performs none of the actions its strobes
might suggest (spec 30_encoding.md R74, 60_exceptions.md R195, R196). -/

namespace Sys2Proof.Machine

/-- `011`: start an invocation and compress a block in one command (R74). -/
def execReserved011 (s : State) : Host.Outcome State Fault Refusal := illegalCommand s

/-- `100`: a last block without a block (R74). -/
def execReserved100 (s : State) : Host.Outcome State Fault Refusal := illegalCommand s

/-- `101`: a last block without a block, with the `init` strobe (R74). -/
def execReserved101 (s : State) : Host.Outcome State Fault Refusal := illegalCommand s

/-- `111`: start an invocation and compress a last block in one command (R74). -/
def execReserved111 (s : State) : Host.Outcome State Fault Refusal := illegalCommand s

end Sys2Proof.Machine
end

