-- ==== Sys2Proof/Machine/Dispatch.lean ====
section
/-! DEFINITION. The dispatch: one arm per command (spec 45_commands.md R170). The checks R170 orders are inside the
meanings: `NOP` and `INIT` check nothing, the others begin with the latched fault. -/

namespace Sys2Proof.Machine

/-- The effect of one accepted command (R170). -/
def exec (i : Instr) (s : State) : Host.Outcome State Fault Refusal :=
  match i with
  | .nop => Sys2Proof.Machine.execNop s
  | .init => Sys2Proof.Machine.execInit s
  | .next block => Sys2Proof.Machine.execNext block s
  | .nextl block => Sys2Proof.Machine.execNextl block s
  | .reserved011 => Sys2Proof.Machine.execReserved011 s
  | .reserved100 => Sys2Proof.Machine.execReserved100 s
  | .reserved101 => Sys2Proof.Machine.execReserved101 s
  | .reserved111 => Sys2Proof.Machine.execReserved111 s

end Sys2Proof.Machine
end

