-- ==== Sys2Proof/Machine/Flags.lean ====
section
/-! DEFINITION. The codes of `PH` and `CAUSE`, and the output ports that show them and the digest: functions of the
state, read without side effects (spec 10_state.md R25, R28 to R30, 60_exceptions.md R194). No arithmetic sets a
flag (40_word_arithmetic.md R99). -/

namespace Sys2Proof.Machine

/-- The two-bit code of `PH` (R25). -/
def Phase.code : Phase → BitVec 2
  | .idle => 0b00#2
  | .pending => 0b01#2
  | .compressed => 0b10#2
  | .final => 0b11#2

/-- The three-bit code of `CAUSE` (60_exceptions.md R194). -/
def Cause.code : Cause → BitVec 3
  | .none => 0b000#3
  | .illegalCmd => 0b001#3
  | .phase => 0b010#3

variable {F : Descriptor}

/-- `cmd_ready`: 1 at every command boundary, also when `ERR = 1` (R30; log 18). -/
def cmdReady (_ : CoreState F) : Bool := true

/-- `digest_valid`: 1 if `PH = FINAL` and `ERR = 0` (R28). -/
def digestValid (c : CoreState F) : Bool := decide (c.PH = .final) && !c.ERR

/-- The status port is "a pure function of `PH`, `ERR` and `CAUSE`" (R28): `cause ‖ err ‖ digest_valid ‖ ready ‖ ph`;
`ready` is 1, and `cause` is `CAUSE`, or 0 when `ERR = 0` (log 9). -/
def statusWord (PH : Phase) (ERR : Bool) (CAUSE : Cause) : BitVec 8 :=
  (if ERR then CAUSE.code else 0b000#3) ++ BitVec.ofBool ERR ++ BitVec.ofBool (decide (PH = .final) && !ERR) ++ 1#1
    ++ PH.code

/-- The status port `status[7:0]` (R28). -/
def status (c : CoreState F) : BitVec 8 := statusWord c.PH c.ERR c.CAUSE

/-- `H[0] ‖ H[1] ‖ … ‖ H[nh-1]`, `H[0]` most significant (R29). -/
def digestValue (F : Descriptor) (H : RegFile F.w F.nh) : BitVec F.dbits :=
  BitVec.ofNat F.dbits (H.toList.foldl (fun acc x => acc * 2 ^ F.w + x.toNat) 0)

/-- The digest port at the observation numbered `obs`: the running digest when `digest_valid = 1`, otherwise
unspecified, a free value (R29; log 4). -/
def digestPort (c : CoreState F) (obs : Nat) : BitVec F.dbits :=
  if digestValid c then digestValue F c.H else Config.unspecifiedPort .digest F.dbits obs

end Sys2Proof.Machine
end

