-- ==== Sys2Proof/Machine/Accept.lean ====
section
/-! DEFINITION. What one event at the inputs of an instance does (spec 30_encoding.md R70, 70_reset_and_hazards.md
R210). -/

namespace Sys2Proof.Machine

/-- The RESET event (70_reset_and_hazards.md R210): `PH`, `ERR` and `CAUSE` take their reset values, the registers
hold no value (free values, log 3), the descriptor is untouched. -/
def resetEvent (s : State) : State :=
  { s with core := CoreState.reset s.F (Config.resetWord s.F.w s.resets), resets := s.resets + 1 }

/-- The decoder of an instance's command port. -/
def decodeFor (F : Descriptor) (cmd : BitVec (cmdWidth F.bs)) : Instr := decode F.bs cmd

/-- One event at the inputs: nothing accepted, a command accepted (`cmd_valid = 1` and `cmd_ready = 1`, R70) and
executed, or a reset. -/
def acceptEvent (s : State) (e : PortEvent s.F.bs) : Host.Outcome State Fault Refusal :=
  match e with
  | .idle => .next s
  | .command cmd => if cmdReady s.core then exec (decodeFor s.F cmd) s else .next s
  | .reset => .next (resetEvent s)

/-- Take the next event off the list of what the host presents; with none left nothing is accepted and no state
changes (R70). -/
def takeEvent (s : State) : Host.Outcome State Fault Refusal :=
  match s.port with
  | [] => .next s
  | e :: rest => acceptEvent { s with port := rest } e

/-- Put a command at the head of the list of what the host presents. -/
def presentCommand (s : State) (cmd : BitVec (cmdWidth s.F.bs)) : State := { s with port := .command cmd :: s.port }

end Sys2Proof.Machine
end

