-- ==== Sys2Proof/Machine/Step.lean ====
section
/-! DEFINITION. One step of the machine: what happens at one command boundary (spec 00_scope.md R12, 45_commands.md
R170). -/

namespace Sys2Proof.Machine

/-- One step: the next event at the inputs (R170, 30_encoding.md R70; log 5). -/
def step (s : State) : Host.Outcome State Fault Refusal := takeEvent s

/-- The state with the command whose bits the opcode table numbers as `w` presented next (log 5, log 6). -/
def State.withFetchWord (s : State) (nbits w : Nat) : State := presentCommand s (tableWord s.F.bs nbits w)

end Sys2Proof.Machine
end

