-- ==== Sys2Proof/Machine/Ser.lean ====
section
/-! DEFINITION. `SER`: the hexadecimal digest string and the `digest_hex` port (spec 44_serialization.md R160 to
R165). -/

namespace Sys2Proof.Machine

/-- The character for a 4-bit value: `0` to `9`, then lowercase `a` to `f` (R161). -/
def hexDigit (v : Nat) : Char :=
  ['0', '1', '2', '3', '4', '5', '6', '7', '8', '9', 'a', 'b', 'c', 'd', 'e', 'f'].getD v '0'

/-- `hexw(x)`: `2*ws` characters, `c[j]` for the nibble `x[4*(2*ws-j)-1 : 4*(2*ws-j-1)]`, the most significant nibble
first, leading zeros kept (R161). -/
def hexw (ws : Nat) {w : Nat} (x : BitVec w) : List Char :=
  (List.range (2 * ws)).map fun j => hexDigit (x.extractLsb' (4 * (2 * ws - j - 1)) 4).toNat

/-- `hexstr(H)`: the words in state order, no separators, no header (R162). -/
def hexstr (F : Descriptor) (H : RegFile F.w F.nh) : List Char := H.toList.flatMap (hexw F.ws)

/-- The 8-bit code of a character of `hexstr`: its ASCII code (R164). -/
def charCode (c : Char) : Byte := BitVec.ofNat 8 c.toNat

/-- The `digest_hex` port at the observation numbered `obs`: one code per character, `c[0]` in the most significant
byte; valid exactly when `digest_valid = 1`, otherwise unspecified, a free value (R164; log 4). -/
def digestHexPort {F : Descriptor} (c : CoreState F) (obs : Nat) : BitVec (8 * F.dlen) :=
  if digestValid c then BitVec.ofNat (8 * F.dlen) (beNat ((hexstr F c.H).map charCode))
  else Config.unspecifiedPort .digestHex (8 * F.dlen) obs

/-- The digest string `SER` gives, which applies in phase `FINAL` with `ERR = 0` only (R165). -/
def ser {F : Descriptor} (c : CoreState F) : Option (List Char) :=
  if digestValid c then some (hexstr F c.H) else none

end Sys2Proof.Machine
end

