-- ==== Sys2Proof/Machine/Assembler.lean ====
section
/-! DEFINITION. The line notation for programs (spec 30_encoding.md R76; log 15). -/

namespace Sys2Proof.Machine

/-- A line of a program: a command, or `RESET`, which "is not a command and has no encoding". -/
inductive Line
  | command (i : Instr)
  | reset
deriving DecidableEq, Repr

/-- Why a line is no line of the notation. -/
inductive LineError
  /-- no mnemonic of R73 stands there, or its operands are too few or too many -/
  | unknownLine
  /-- the operand is not a hexadecimal numeral of exactly `2*bs` digits -/
  | badBlock
deriving DecidableEq, Repr

/-- Two hexadecimal digits of a byte, the most significant first. -/
def byteHex (b : Byte) : List Char := [hexDigit (b.toNat / 16), hexDigit (b.toNat % 16)]

/-- A block as a hexadecimal numeral: its bytes in message order, two digits a byte. -/
def blockHex (block : List Byte) : List Char := block.flatMap byteHex

/-- The mnemonic of a command; the reserved codes have none (R73, R74). -/
def Instr.mnemonicChars : Instr → Option (List Char)
  | .nop => some ['N', 'O', 'P']
  | .init => some ['I', 'N', 'I', 'T']
  | .next _ => some ['N', 'E', 'X', 'T']
  | .nextl _ => some ['N', 'E', 'X', 'T', 'L']
  | .reserved011 => none
  | .reserved100 => none
  | .reserved101 => none
  | .reserved111 => none

/-- The text of a line; none for a reserved code, which has no mnemonic. -/
def Line.text : Line → Option (List Char)
  | .reset => some ['R', 'E', 'S', 'E', 'T']
  | .command i =>
    (Instr.mnemonicChars i).map fun m => if i.operand = [] then m else m ++ ' ' :: blockHex i.operand

/-- The value of a hexadecimal digit, of either case (log 15). -/
def hexValue (c : Char) : Option Nat :=
  if '0' ≤ c ∧ c ≤ '9' then some (c.toNat - 48)
  else if 'a' ≤ c ∧ c ≤ 'f' then some (c.toNat - 87)
  else if 'A' ≤ c ∧ c ≤ 'F' then some (c.toNat - 55)
  else none

/-- The bytes of a hexadecimal numeral of an even number of digits. -/
def parseHex : List Char → Option (List Byte)
  | [] => some []
  | [_] => none
  | c :: d :: rest =>
    match hexValue c, hexValue d, parseHex rest with
    | some x, some y, some bytes => some (BitVec.ofNat 8 (16 * x + y) :: bytes)
    | _, _, _ => none

/-- The words of a line, which spaces separate. -/
def lineWords (chars : List Char) : List (List Char) := (chars.splitOn ' ').filter fun word => word != []

/-- The line that words stand for. -/
def parseWords (bs : Nat) (words : List (List Char)) : Except LineError (Option Line) :=
  match words with
  | [] => .ok none
  | [m] =>
    if m = ['R', 'E', 'S', 'E', 'T'] then .ok (some .reset)
    else if m = ['N', 'O', 'P'] then .ok (some (.command .nop))
    else if m = ['I', 'N', 'I', 'T'] then .ok (some (.command .init))
    else .error .unknownLine
  | [m, numeral] =>
    if m = ['N', 'E', 'X', 'T'] ∨ m = ['N', 'E', 'X', 'T', 'L'] then
      match parseHex numeral with
      | some block =>
        if block.length = bs then
          .ok (some (.command (if m = ['N', 'E', 'X', 'T'] then .next block else .nextl block)))
        else .error .badBlock
      | none => .error .badBlock
    else .error .unknownLine
  | _ => .error .unknownLine

/-- Read one line: `;` starts a comment, an empty line stands for nothing (R76). -/
def parseLine (bs : Nat) (chars : List Char) : Except LineError (Option Line) :=
  parseWords bs (lineWords (chars.takeWhile fun c => c != ';'))

/-- The encoding of a command as text: `cmd_op` as three binary digits, a space, `cmd_block` as `2*bs` hexadecimal
digits (R76). -/
def encodingText (bs : Nat) (i : Instr) : List Char :=
  let op := i.opcode
  let digit (b : Bool) : Char := if b then '1' else '0'
  [digit (opLast op), digit (opNext op), digit (opInit op), ' '] ++ blockHex (blockBytes (cmdBlock (encode bs i)))

/-- The event at the inputs that a line stands for. -/
def Line.event (bs : Nat) : Line → PortEvent bs
  | .command i => .command (encode bs i)
  | .reset => .reset

end Sys2Proof.Machine
end

