-- ==== Sys2Proof/Machine/Construct.lean ====
section
/-! DEFINITION. Construction of an instance from a family selector and a descriptor (spec 30_encoding.md R79,
60_exceptions.md R190 to R192, R199). -/

namespace Sys2Proof.Machine

/-- The family selector: "by name or enumerant" (R79). -/
inductive Selector
  | enumerant (n : Nat)
  | name (chars : List Char)
deriving DecidableEq, Repr

/-- The document's errors, which prevent an instance from existing (R190). -/
inductive ConstructionRefusal
  /-- the selector names neither family (R191) -/
  | unsupportedFamily
  /-- the descriptor does not satisfy `WF(F)` (R192) -/
  | malformedDescriptor
deriving DecidableEq, Repr

/-- The enumerants are `0` and `1`, the names `SHA-1` and `SHA-512`, compared exactly (R79). -/
def Selector.family : Selector → Option Family
  | .enumerant 0 => some .sha1
  | .enumerant 1 => some .sha2_64
  | .enumerant (_ + 2) => none
  | .name chars =>
    if chars = ['S', 'H', 'A', '-', '1'] then some .sha1
    else if chars = ['S', 'H', 'A', '-', '5', '1', '2'] then some .sha2_64
    else none

/-- Construction: the family is checked before the descriptor is looked at (R199). A descriptor whose own tag is
not the selected family is refused as malformed (log 11). -/
def construct (sel : Selector) (F : RawDescriptor) : Except ConstructionRefusal Descriptor :=
  match sel.family with
  | none => .error .unsupportedFamily
  | some fam =>
    if h : F.fam = fam ∧ F.wellFormed = true then .ok ⟨F, h.2⟩ else .error .malformedDescriptor

/-- The instance built, after its first reset (70_reset_and_hazards.md R212), or the refusal. -/
def build (sel : Selector) (F : RawDescriptor) : Except ConstructionRefusal State :=
  (construct sel F).map State.resetOf

end Sys2Proof.Machine
end

