-- ==== Sys2Proof/Machine/Window.lean ====
section
/-! DEFINITION. The other form of the scheduler the spec allows: only the last 16 entries are kept and `W[t]` is
computed in the same step as round `t` (spec 42_schedule.md R129). The engine of this model keeps the full array;
this form is here so that the spec's claim that the two give the same `H` can be stated. -/

namespace Sys2Proof.Machine

/-- Entry `W[t-d]` of a window that holds the last entries, the newest first. -/
def back {w : Nat} (window : List (BitVec w)) (d : Nat) : BitVec w := window.getD (d - 1) 0

/-- `W[t]` from the window: a word of the block for `t < cc`, otherwise the family's recurrence (R121, R123,
R126). -/
def windowWord (F : Descriptor) (block : List Byte) (window : List (BitVec F.w)) (t : Nat) : BitVec F.w :=
  if t < F.cc then blockWord F block t
  else
    match F.fam with
    | .sha1 => rotlW (xorW (xorW (xorW (back window 3) (back window 8)) (back window 14)) (back window 16)) 1
    | .sha2_64 =>
      addW (addW (addW (smallSigma1 (back window 2)) (back window 7)) (smallSigma0 (back window 15))) (back window 16)

/-- One round with the window: compute `W[t]`, push it, drop what is older than 16 entries, run the round. -/
def windowRound (F : Descriptor) (block : List Byte) (st : List (BitVec F.w) × RegFile F.w F.nh) (t : Nat) :
    List (BitVec F.w) × RegFile F.w F.nh :=
  let x := windowWord F block st.1 t
  ((x :: st.1).take 16, roundOp F t x st.2)

/-- `compress` with a 16-entry window (R129). -/
def compressWindow (F : Descriptor) (h : RegFile F.w F.nh) (block : List Byte) : RegFile F.w F.nh :=
  foldWords h ((roundIndices F).foldl (windowRound F block) ([], h)).2

end Sys2Proof.Machine
end

