-- ==== Sys2Proof/Machine/Pad.lean ====
section
/-! DEFINITION. `PAD`: padding and segmentation (spec 41_padding.md R110 to R118). A total function of the message
that depends on `F` through `bs` and `lw` only (R110). -/

namespace Sys2Proof.Machine

/-- The least `z` with `(L + 1 + z) mod bs = bs - lw` (R111). It lies below `bs` (R112); without one, which
`WF(F)` excludes, the value is 0 (log 17). -/
def zeroCount (F : RawDescriptor) (L : Nat) : Nat :=
  ((List.range F.bs).find? fun z => (L + 1 + z) % F.bs == F.bs - F.lw).getD 0

/-- The length field: `be(lw, (8*L) mod 2^lbits)` (R111, R114; log 12). -/
def lengthField (F : RawDescriptor) (L : Nat) : List Byte := be F.lw (8 * L % 2 ^ F.lbits)

/-- The padded message `PM = pad(F, M)` (R111). -/
def pad (F : RawDescriptor) (M : List Byte) : List Byte :=
  M ++ [0x80#8] ++ List.replicate (zeroCount F M.length) 0x00#8 ++ lengthField F M.length

/-- `N`, the number of blocks: "paddedLength / blockSize" (R113). -/
def blockCount (F : RawDescriptor) (M : List Byte) : Nat := (pad F M).length / F.bs

/-- `pad_blocks(F, M)`: `B[j] = PM[j*bs .. (j+1)*bs - 1]` (R116). -/
def padBlocks (F : RawDescriptor) (M : List Byte) : List (List Byte) :=
  (List.range (blockCount F M)).map fun j => ((pad F M).drop (j * F.bs)).take F.bs

end Sys2Proof.Machine
end

