-- ==== Sys2Proof/Machine/Digest.lean ====
section
/-! DEFINITION. The pseudo-instruction `DIGEST` (spec 30_encoding.md R77, 45_commands.md R178). -/

namespace Sys2Proof.Machine

/-- The block commands of an invocation: the last block with `NEXTL`, the others with `NEXT`, in order
(41_padding.md R117). -/
def blockCommands (blocks : List (List Byte)) : List Instr :=
  blocks.dropLast.map .next ++ blocks.getLast?.toList.map .nextl

/-- The expansion of `DIGEST <M>`: `INIT`, then `NEXT B[j]` for `j = 0 … N-2`, then `NEXTL B[N-1]` (R77). -/
def digestCommands (F : RawDescriptor) (M : List Byte) : List Instr := .init :: blockCommands (padBlocks F M)

/-- Accepted commands executed one after another (00_scope.md R16). -/
def execAll : List Instr → State → Host.Outcome State Fault Refusal
  | [], s => .next s
  | i :: rest, s =>
    match exec i s with
    | .next s' => execAll rest s'
    | .fault r => .fault r
    | .refused r => .refused r

/-- The digest of a message as a function of `F` and `M` alone: `hexstr(fold(IV, pad_blocks(F, M)))` (R178). -/
def digestFn (F : Descriptor) (M : List Byte) : List Char :=
  hexstr F (chain F (ivFile F) (padBlocks F.toRawDescriptor M))

end Sys2Proof.Machine
end

