-- ==== Sys2Proof/Machine/Instances.lean ====
section
/-! DEFINITION. Several instances side by side, of the same or different families (spec 60_exceptions.md R204,
20_memory.md R63; log 20). -/

namespace Sys2Proof.Machine

/-- The instances; "instances have no identifier visible to themselves" (R204), the index is the reader's. -/
abbrev Fabric := List State

/-- One step of instance `i`, the others standing still; nothing happens when there is no instance `i`. -/
def stepInstance (fabric : Fabric) (i : Nat) : Host.Outcome Fabric Fault Refusal :=
  match fabric[i]? with
  | none => .next fabric
  | some s =>
    match step s with
    | .next s' => .next (fabric.set i s')
    | .fault r => .fault r
    | .refused r => .refused r

/-- Steps of the instances in the given interleaving. -/
def runInstances : List Nat → Fabric → Host.Outcome Fabric Fault Refusal
  | [], fabric => .next fabric
  | i :: order, fabric =>
    match stepInstance fabric i with
    | .next fabric' => runInstances order fabric'
    | .fault r => .fault r
    | .refused r => .refused r

end Sys2Proof.Machine
end

