-- ==== Sys2Proof/Safety.lean ====
section
/-! DEFINITION. What claims about runs are stated in: a run that has not gone wrong, the invariant of the fault
registers, and completed invocations (spec 60_exceptions.md R197, R202). -/

namespace Sys2Proof.Machine

/-- Nothing has gone wrong since the last `INIT` or reset: "a run in which `ERR` becomes 1 has gone wrong from that
command on" (60_exceptions.md R197). -/
abbrev Sound (s : State) : Prop := s.core.ERR = false

/-- `ERR` and `CAUSE` agree: the cause is none exactly while there is no fault (60_exceptions.md R194). -/
abbrev FaultRegistersAgree (s : State) : Prop := s.core.ERR = false ↔ s.core.CAUSE = .none

/-- `k` steps of the machine. -/
abbrev run (k : Nat) (s : State) : Host.Outcome State Fault Refusal := Host.Core.run Sys2Proof.core k s

/-- The commands a list of input events brings that are not `NOP`; idle boundaries bring none, and a reset is no
command. -/
def effectiveCommands (F : Descriptor) (events : List (PortEvent F.bs)) : List Instr :=
  events.filterMap fun e =>
    match e with
    | .idle => none
    | .reset => none
    | .command cmd => if decodeFor F cmd = .nop then none else some (decodeFor F cmd)

/-- The events contain a whole invocation and end in it: an `INIT`, after which there is no reset and the commands
are exactly `NEXT` for each block but the last and `NEXTL` for the last, with `NOP`s anywhere between them
(60_exceptions.md R202). -/
def EndsInInvocation (F : Descriptor) (events : List (PortEvent F.bs)) (blocks : List (List Byte)) : Prop :=
  blocks ≠ [] ∧ ∃ before init after, events = before ++ .command init :: after ∧ decodeFor F init = .init ∧
    .reset ∉ after ∧ effectiveCommands F after = blockCommands blocks

end Sys2Proof.Machine
end

