-- ==== Sys2Proof/Certificates/Slice0/Obligations.lean ====
section
/-! DEFINITION. The statements for the provers, from the numbered rules of spec/. Statements about commands speak of
every state, `F` being any well-formed descriptor; an equation `exec i s = .next { s with … }` gives the new value of
every field it names and says that no other field changes. -/

open Sys2Proof Sys2Proof.Machine

/-! ### Encoding (30_encoding.md) -/

/-- R71 to R73, R76: decoding the encoding of any command the port can present gives the command back, with every
byte of its block. -/
def Obligations.DecodeOfEncode : Prop :=
  ∀ (bs : Nat) (i : Instr), i.wellFormed bs = true → decode bs (encode bs i) = i

/-- R71 to R74, R76: encoding what a command word decodes to gives the word back for format `B`, and for the other
codes the word with its ignored block field at zero. -/
def Obligations.EncodeOfDecode : Prop :=
  ∀ (bs : Nat) (cmd : BitVec (cmdWidth bs)),
    encode bs (decode bs cmd) =
      if cmdOp cmd = 0b010#3 ∨ cmdOp cmd = 0b110#3 then cmd else cmdWord (cmdOp cmd) 0

/-- R54, R70: every command word decodes to a command the port can present. -/
def Obligations.DecodedCommandsAreWellFormed : Prop :=
  ∀ (bs : Nat) (cmd : BitVec (cmdWidth bs)), (decode bs cmd).wellFormed bs = true

/-- R73, R74: the complete opcode map; the three bits of `cmd_op` select the command, whatever the block field. -/
def Obligations.OpcodeMap : Prop :=
  ∀ (bs : Nat) (block : BitVec (8 * bs)),
    decode bs (cmdWord 0b000#3 block) = .nop ∧
    decode bs (cmdWord 0b001#3 block) = .init ∧
    decode bs (cmdWord 0b010#3 block) = .next (blockBytes block) ∧
    decode bs (cmdWord 0b110#3 block) = .nextl (blockBytes block) ∧
    decode bs (cmdWord 0b011#3 block) = .reserved011 ∧
    decode bs (cmdWord 0b100#3 block) = .reserved100 ∧
    decode bs (cmdWord 0b101#3 block) = .reserved101 ∧
    decode bs (cmdWord 0b111#3 block) = .reserved111

/-- R72 (derived there from R51 and R52): word `k` of the block, as the scheduler decodes it, is
`cmd_block[w*(cc-k)-1 : w*(cc-k-1)]`. -/
def Obligations.BlockWordIsFieldSlice : Prop :=
  ∀ (F : Descriptor) (block : BitVec (8 * F.bs)) (k : Nat), k < F.cc →
    blockWord F (blockBytes block) k = block.extractLsb' (F.w * (F.cc - k - 1)) F.w

/-- R76: reading the text of a line gives the line back, for `RESET` and for every command the port can present that
has a mnemonic. -/
def Obligations.AssemblerRoundTrip : Prop :=
  ∀ (bs : Nat) (line : Line) (text : List Char), 0 < bs →
    (∀ i, line = .command i → i.wellFormed bs = true) → line.text = some text →
    parseLine bs text = .ok (some line)

/-! ### The block operand (20_memory.md) -/

/-- R52: `MemRead(addr, n)` is the sum of `BLK[addr+k] * 256^(n-1-k)`. R52 gives it for `n >= 1`; the case `n = 0` is
the model's choice (log 17). -/
def Obligations.MemReadIsBigEndianSum : Prop :=
  ∀ (block : List Byte) (addr n : Nat), addr + n ≤ block.length →
    memRead block addr n = ∑ k ∈ Finset.range n, (block.getD (addr + k) 0).toNat * 256 ^ (n - 1 - k)

/-- 00_scope.md R14: `MemWrite` is the inverse of `MemRead`: it keeps the length and every byte outside
`addr … addr+n-1`, and reading back gives the value. The case `n = 0` is the model's choice (log 17). -/
def Obligations.MemReadOfMemWrite : Prop :=
  ∀ (block : List Byte) (addr n v : Nat), addr + n ≤ block.length → v < 256 ^ n →
    memRead (memWrite block addr n v) addr n = v ∧
    (memWrite block addr n v).length = block.length ∧
    ∀ a, a < addr ∨ addr + n ≤ a → (memWrite block addr n v).getD a 0 = block.getD a 0

/-! ### Word arithmetic (40_word_arithmetic.md) -/

/-- R91: `x +_w y = (x + y) mod 2^w`, with neutral element 0, commutative and associative (that sentence is derived
there from the ring laws). -/
def Obligations.AddWrapsModuloWidth : Prop :=
  ∀ (w : Nat) (x y z : BitVec w),
    (addW x y).toNat = (x.toNat + y.toNat) % 2 ^ w ∧
    addW x y = addW y x ∧ addW (addW x y) z = addW x (addW y z) ∧ addW x 0 = x

/-- R92, R93: the rotations as integers and bit by bit, for every amount the rules allow, and their relation
`ROTL_w(x, n) = ROTR_w(x, w - n)` (derived there from the two rules). -/
def Obligations.RotationsMoveEveryBit : Prop :=
  ∀ (w : Nat) (x : BitVec w) (n : Nat), 0 < n → n < w →
    (rotlW x n).toNat = x.toNat * 2 ^ n % 2 ^ w + x.toNat / 2 ^ (w - n) ∧
    (rotrW x n).toNat = x.toNat / 2 ^ n + x.toNat % 2 ^ n * 2 ^ (w - n) ∧
    (∀ j, j < w → (rotlW x n).getLsbD j = x.getLsbD ((j + w - n) % w)) ∧
    (∀ j, j < w → (rotrW x n).getLsbD j = x.getLsbD ((j + n) % w)) ∧
    rotlW x n = rotrW x (w - n)

/-- R94, R98: `SHR` is `floor(x / 2^n)` and `NOT` is `(2^w - 1) - x`. R94 gives `SHR` for `0 < n < w`; that the formula
holds for `n = 0` and `n >= w` too is the model's choice (log 17). -/
def Obligations.ShiftAndComplementAsIntegers : Prop :=
  ∀ (w : Nat) (x : BitVec w) (n : Nat),
    (shrW x n).toNat = x.toNat / 2 ^ n ∧ (notW x).toNat = 2 ^ w - 1 - x.toNat

/-- R95 to R97: bit `j` of `AND`, `OR` and `XOR`, for `0 <= j < w`. -/
def Obligations.LogicBitByBit : Prop :=
  ∀ (w : Nat) (x y : BitVec w) (j : Nat), j < w →
    ((andW x y).getLsbD j = true ↔ x.getLsbD j = true ∧ y.getLsbD j = true) ∧
    ((orW x y).getLsbD j = true ↔ x.getLsbD j = true ∨ y.getLsbD j = true) ∧
    ((xorW x y).getLsbD j = true ↔ x.getLsbD j ≠ y.getLsbD j)

/-! ### The schedule (42_schedule.md) -/

/-- R124, R125 and 43_compression.md R144, R145, bit by bit: bit `j` of each sigma is the parity of the three bits the
rotations and the shift bring there; a shift brings 0 from above bit 63. -/
def Obligations.SigmaFunctionsBitByBit : Prop :=
  ∀ (x : BitVec 64) (j : Nat), j < 64 →
    (smallSigma0 x).getLsbD j =
      ((x.getLsbD ((j + 1) % 64) ^^ x.getLsbD ((j + 8) % 64)) ^^ (decide (j + 7 < 64) && x.getLsbD (j + 7))) ∧
    (smallSigma1 x).getLsbD j =
      ((x.getLsbD ((j + 19) % 64) ^^ x.getLsbD ((j + 61) % 64)) ^^ (decide (j + 6 < 64) && x.getLsbD (j + 6))) ∧
    (bigSigma0 x).getLsbD j =
      ((x.getLsbD ((j + 28) % 64) ^^ x.getLsbD ((j + 34) % 64)) ^^ x.getLsbD ((j + 39) % 64)) ∧
    (bigSigma1 x).getLsbD j =
      ((x.getLsbD ((j + 14) % 64) ^^ x.getLsbD ((j + 18) % 64)) ^^ x.getLsbD ((j + 41) % 64))

/-- R121, R122, R123, R126, R127: the first `cc` words of the schedule are the block's own, and every later word
satisfies the family's recurrence over the finished schedule. -/
def Obligations.ScheduleSatisfiesRecurrence : Prop :=
  ∀ (F : Descriptor) (block : List Byte),
    (∀ k, k < F.cc → RegFile.get (sched F block) k = blockWord F block k) ∧
    ∀ i, F.cc ≤ i → i < F.nr →
      (F.fam = .sha1 → RegFile.get (sched F block) i =
        rotlW (xorW (xorW (xorW (RegFile.get (sched F block) (i - 3)) (RegFile.get (sched F block) (i - 8)))
          (RegFile.get (sched F block) (i - 14))) (RegFile.get (sched F block) (i - 16))) 1) ∧
      (F.fam = .sha2_64 → RegFile.get (sched F block) i =
        addW (addW (addW (smallSigma1 (RegFile.get (sched F block) (i - 2))) (RegFile.get (sched F block) (i - 7)))
          (smallSigma0 (RegFile.get (sched F block) (i - 15)))) (RegFile.get (sched F block) (i - 16)))

/-- R127, R128: the former content of `W` has no influence on the schedule. -/
def Obligations.ScheduleForgetsFormerContent : Prop :=
  ∀ (F : Descriptor) (block : List Byte) (W : RegFile F.w F.nr), schedOver F block W = sched F block

/-- R129: an implementation that keeps only the last 16 schedule entries and computes `W[t]` in round `t` gives the
same running digest. -/
def Obligations.SlidingWindowGivesSameDigest : Prop :=
  ∀ (F : Descriptor) (h : RegFile F.w F.nh) (block : List Byte), compressWindow F h block = compress F h block

/-! ### The round operator and the register-file micro-operations (43_compression.md) -/

/-- R138, R142, R143, bit by bit: select, parity and majority, and that the two families' forms of select and of
majority agree. -/
def Obligations.SelectParityMajorityBitByBit : Prop :=
  ∀ (w : Nat) (x y z : BitVec w) (j : Nat), j < w →
    (fCh x y z).getLsbD j = (if x.getLsbD j then y.getLsbD j else z.getLsbD j) ∧
    (fPar x y z).getLsbD j = ((x.getLsbD j ^^ y.getLsbD j) ^^ z.getLsbD j) ∧
    (fMaj x y z).getLsbD j = decide (2 ≤ (x.getLsbD j).toNat + (y.getLsbD j).toNat + (z.getLsbD j).toNat) ∧
    ch x y z = fCh x y z ∧ maj x y z = fMaj x y z

/-- R137, R139, R140, R141: one round of SHA-1 on the letters `a … e`, with 32-bit words: each band of 20 rounds has its
function and its one constant. -/
def Obligations.Sha1RoundShiftsLetters : Prop :=
  ∀ (F : Descriptor) (t : Nat) (Wt : BitVec F.w) (V : RegFile F.w F.nh), F.fam = .sha1 → t < F.nr →
    F.w = 32 ∧ F.nh = 5 ∧
    RegFile.get (roundOp F t Wt V) 0 =
      addW (addW (addW (addW (rotlW (RegFile.get V 0) 5)
        (if t < 20 then fCh (RegFile.get V 1) (RegFile.get V 2) (RegFile.get V 3)
          else if t < 40 then fPar (RegFile.get V 1) (RegFile.get V 2) (RegFile.get V 3)
          else if t < 60 then fMaj (RegFile.get V 1) (RegFile.get V 2) (RegFile.get V 3)
          else fPar (RegFile.get V 1) (RegFile.get V 2) (RegFile.get V 3))) (RegFile.get V 4))
        (BitVec.ofNat F.w (F.K.getD (t / 20) 0))) Wt ∧
    RegFile.get (roundOp F t Wt V) 1 = RegFile.get V 0 ∧
    RegFile.get (roundOp F t Wt V) 2 = rotlW (RegFile.get V 1) 30 ∧
    RegFile.get (roundOp F t Wt V) 3 = RegFile.get V 2 ∧
    RegFile.get (roundOp F t Wt V) 4 = RegFile.get V 3

/-- R146, R147, R148: one round of the 64-bit variant on the letters `a … h`, with 64-bit words. -/
def Obligations.Sha2RoundShiftsLetters : Prop :=
  ∀ (F : Descriptor) (t : Nat) (Wt : BitVec F.w) (V : RegFile F.w F.nh), F.fam = .sha2_64 → t < F.nr →
    F.w = 64 ∧ F.nh = 8 ∧
    let T1 := addW (addW (addW (addW (RegFile.get V 7) (bigSigma1 (RegFile.get V 4)))
      (ch (RegFile.get V 4) (RegFile.get V 5) (RegFile.get V 6)))
      (BitVec.ofNat F.w (F.K.getD t 0))) Wt
    let T2 := addW (bigSigma0 (RegFile.get V 0)) (maj (RegFile.get V 0) (RegFile.get V 1) (RegFile.get V 2))
    RegFile.get (roundOp F t Wt V) 0 = addW T1 T2 ∧
    RegFile.get (roundOp F t Wt V) 1 = RegFile.get V 0 ∧
    RegFile.get (roundOp F t Wt V) 2 = RegFile.get V 1 ∧
    RegFile.get (roundOp F t Wt V) 3 = RegFile.get V 2 ∧
    RegFile.get (roundOp F t Wt V) 4 = addW (RegFile.get V 3) T1 ∧
    RegFile.get (roundOp F t Wt V) 5 = RegFile.get V 4 ∧
    RegFile.get (roundOp F t Wt V) 6 = RegFile.get V 5 ∧
    RegFile.get (roundOp F t Wt V) 7 = RegFile.get V 6

/-- R136: `SEED` copies every word of `H` to `V` and changes nothing else. -/
def Obligations.SeedCopiesRunningDigest : Prop :=
  ∀ (F : Descriptor) (block : List Byte) (c : CoreState F),
    (∀ i, i < F.nh → RegFile.get (MicroOp.run block c .seed).V i = RegFile.get c.H i) ∧
    MicroOp.run block c .seed = { c with V := (MicroOp.run block c .seed).V }

/-- R149: `FOLD` adds each word of `V` to the word of `H` of the same index, modulo `2^w`, and changes nothing else. -/
def Obligations.FoldAddsWordByWord : Prop :=
  ∀ (F : Descriptor) (block : List Byte) (c : CoreState F),
    (∀ i, i < F.nh → (RegFile.get (MicroOp.run block c .fold).H i).toNat =
      ((RegFile.get c.H i).toNat + (RegFile.get c.V i).toNat) % 2 ^ F.w) ∧
    MicroOp.run block c .fold = { c with H := (MicroOp.run block c .fold).H }

/-- 45_commands.md R173: `LOADIV` loads every word of `H` from the table and changes nothing else. -/
def Obligations.LoadivLoadsTable : Prop :=
  ∀ (F : Descriptor) (block : List Byte) (c : CoreState F),
    (∀ i, i < F.nh → (RegFile.get (MicroOp.run block c .loadiv).H i).toNat = F.IV.getD i 0) ∧
    MicroOp.run block c .loadiv = { c with H := (MicroOp.run block c .loadiv).H }

/-- 45_commands.md R176, 43_compression.md R150 and R152: the micro-operations of one block, run in their order, are
the single assignment `H <- compress(F, H, B)` with the left-over working variables and schedule. -/
def Obligations.BlockSequenceIsCompress : Prop :=
  ∀ (F : Descriptor) (block : List Byte) (c : CoreState F),
    blockSeq block c = { c with
      PH := .pending
      H := compress F c.H block
      V := rounds F (sched F block) c.H
      W := sched F block }

/-! ### The commands (45_commands.md) -/

/-- R171: `NOP` completes in every state and changes nothing. -/
def Obligations.NopChangesNothing : Prop := ∀ s : State, exec .nop s = .next s

/-- R172, R173, R180: `INIT` completes in every state, in every phase and with `ERR` either way: `H` is loaded from the
table `IV`, `ERR` and `CAUSE` are cleared, the phase becomes `PENDING`, and nothing else changes. -/
def Obligations.InitStartsInvocation : Prop :=
  ∀ s : State, exec .init s = .next { s with core := { s.core with
    PH := .pending
    ERR := false
    CAUSE := .none
    H := RegFile.ofFn s.F.iv } }

/-- R174: with `ERR = 0`, in phase `PENDING` or `COMPRESSED`, `NEXT` with a block of `bs` bytes completes: `H` becomes
`compress(F, H, B)`, the phase `COMPRESSED`; `V` and `W` hold what 43_compression.md R152 says; nothing else changes. -/
def Obligations.NextCompressesBlock : Prop :=
  ∀ (s : State) (block : List Byte), s.core.ERR = false → (s.core.PH = .pending ∨ s.core.PH = .compressed) →
    block.length = s.F.bs →
    exec (.next block) s = .next { s with core := { s.core with
      PH := .compressed
      H := compress s.F s.core.H block
      V := rounds s.F (sched s.F block) s.core.H
      W := sched s.F block } }

/-- R175: the same for `NEXTL`, which leaves the phase `FINAL`. -/
def Obligations.NextlCompressesLastBlock : Prop :=
  ∀ (s : State) (block : List Byte), s.core.ERR = false → (s.core.PH = .pending ∨ s.core.PH = .compressed) →
    block.length = s.F.bs →
    exec (.nextl block) s = .next { s with core := { s.core with
      PH := .final
      H := compress s.F s.core.H block
      V := rounds s.F (sched s.F block) s.core.H
      W := sched s.F block } }

/-- 30_encoding.md R74, 60_exceptions.md R195 and R196: with `ERR = 0` each of the four reserved codes completes in
every phase by raising `ILLEGAL_CMD`: `ERR` and `CAUSE` are written and nothing else changes. -/
def Obligations.ReservedCodesRaiseIllegalCommand : Prop :=
  ∀ (s : State) (i : Instr), s.core.ERR = false →
    (i = .reserved011 ∨ i = .reserved100 ∨ i = .reserved101 ∨ i = .reserved111) →
    exec i s = .next { s with core := { s.core with ERR := true, CAUSE := .illegalCmd } }

/-- 60_exceptions.md R195 and R196: with `ERR = 0`, in phase `IDLE` or `FINAL`, `NEXT` and `NEXTL` with any block raise
`PHASE`: `ERR` and `CAUSE` are written and nothing else changes. -/
def Obligations.BlockOutOfPhaseRaisesPhase : Prop :=
  ∀ (s : State) (block : List Byte), s.core.ERR = false → (s.core.PH = .idle ∨ s.core.PH = .final) →
    exec (.next block) s = .next { s with core := { s.core with ERR := true, CAUSE := .phase } } ∧
    exec (.nextl block) s = .next { s with core := { s.core with ERR := true, CAUSE := .phase } }

/-- 60_exceptions.md R197: while `ERR = 1` every command other than `INIT` and `NOP` is discarded without any state
change, and so `CAUSE` keeps the first cause; `NOP` does nothing, as always. -/
def Obligations.LatchedFaultDiscardsCommands : Prop :=
  ∀ (s : State) (i : Instr), s.core.ERR = true → i ≠ .init → exec i s = .next s

/-- The model's own stop (log 7): a block the port cannot present, where it would be compressed. -/
def Obligations.WrongBlockWidthStops : Prop :=
  ∀ (s : State) (block : List Byte), s.core.ERR = false → (s.core.PH = .pending ∨ s.core.PH = .compressed) →
    block.length ≠ s.F.bs →
    exec (.next block) s = .fault .blockWidth ∧ exec (.nextl block) s = .fault .blockWidth

/-- R177: the complete transition relation of the phase register, for every command and every state. -/
def Obligations.PhaseTransitionTable : Prop :=
  ∀ (s s' : State) (i : Instr), exec i s = .next s' →
    s'.core.PH =
      match i with
      | .init => .pending
      | .next _ => if s.core.ERR = false ∧ s.core.PH.takesBlock = true then .compressed else s.core.PH
      | .nextl _ => if s.core.ERR = false ∧ s.core.PH.takesBlock = true then .final else s.core.PH
      | .nop | .reserved011 | .reserved100 | .reserved101 | .reserved111 => s.core.PH

/-- 10_state.md R20: `H` is written by `LOADIV` and `FOLD` only, so a command that changes it is `INIT`, or a `NEXT` or
`NEXTL` that compressed its block. -/
def Obligations.OnlyLoadivAndFoldWriteRunningDigest : Prop :=
  ∀ (F : Descriptor) (c c' : CoreState F) (port : List (PortEvent F.bs)) (n : Nat) (i : Instr),
    exec i ⟨F, c, port, n⟩ = .next ⟨F, c', port, n⟩ → c'.H ≠ c.H →
    i = .init ∧ c'.H = ivFile F ∨
    ∃ block, (i = .next block ∨ i = .nextl block) ∧ c'.H = compress F c.H block

/-- 60_exceptions.md R196: fault entry sets `ERR`, writes `CAUSE` and changes nothing else; then `status.err = 1`,
`status.cause` is the cause, and `digest_valid = 0` even in phase `FINAL`. -/
def Obligations.FaultEntryInvalidatesDigest : Prop :=
  ∀ (s : State) (cause : Cause),
    raiseFault cause s = { s with core := { s.core with ERR := true, CAUSE := cause } } ∧
    (status (raiseFault cause s).core).getLsbD 4 = true ∧
    (status (raiseFault cause s).core).extractLsb' 5 3 = cause.code ∧
    digestValid (raiseFault cause s).core = false

/-- R170: the checks of a step are made in the order of the rule, and the first that applies decides it: one equation
for every command word in every state. -/
def Obligations.DispatchChecksInFixedOrder : Prop :=
  ∀ (s : State) (cmd : BitVec (cmdWidth s.F.bs)),
    exec (decode s.F.bs cmd) s =
      if cmdOp cmd = 0b000#3 then .next s
      else if cmdOp cmd = 0b001#3 then .next { s with core := { s.core with
        PH := .pending, ERR := false, CAUSE := .none, H := ivFile s.F } }
      else if s.core.ERR = true then .next s
      else if cmdOp cmd = 0b011#3 ∨ cmdOp cmd = 0b100#3 ∨ cmdOp cmd = 0b101#3 ∨ cmdOp cmd = 0b111#3 then
        .next (raiseFault .illegalCmd s)
      else if s.core.PH = .idle ∨ s.core.PH = .final then .next (raiseFault .phase s)
      else if cmdOp cmd = 0b010#3 then
        .next { s with core := { blockSeq (blockBytes (cmdBlock cmd)) s.core with PH := .compressed } }
      else .next { s with core := { blockSeq (blockBytes (cmdBlock cmd)) s.core with PH := .final } }

/-! ### Steps (45_commands.md R170, 30_encoding.md R70) -/

/-- R70, R170: a step at which a command word is presented executes what the word decodes to, on the state with that
event taken off the list. -/
def Obligations.StepExecutesDecodedCommand : Prop :=
  ∀ (F : Descriptor) (c : CoreState F) (cmd : BitVec (cmdWidth F.bs)) (rest : List (PortEvent F.bs)) (n : Nat),
    step ⟨F, c, .command cmd :: rest, n⟩ = exec (decode F.bs cmd) ⟨F, c, rest, n⟩

/-- R70: with `cmd_valid = 0` nothing is accepted and no state changes. -/
def Obligations.NothingAcceptedNothingChanges : Prop :=
  ∀ (F : Descriptor) (c : CoreState F) (rest : List (PortEvent F.bs)) (n : Nat),
    step ⟨F, c, .idle :: rest, n⟩ = .next ⟨F, c, rest, n⟩ ∧ step ⟨F, c, [], n⟩ = .next ⟨F, c, [], n⟩

/-- 70_reset_and_hazards.md R210 and 10_state.md R39: the RESET event, in any state, gives `PH = IDLE`, `ERR = 0`,
`CAUSE = 0` and `status = 0x04`, and does not touch the descriptor. Nothing is said of `H`, `V` and `W`, which hold no
value then. -/
def Obligations.ResetEventGivesIdle : Prop :=
  ∀ (F : Descriptor) (c : CoreState F) (rest : List (PortEvent F.bs)) (n : Nat), ∃ c' : CoreState F,
    step ⟨F, c, .reset :: rest, n⟩ = .next ⟨F, c', rest, n + 1⟩ ∧
    c'.PH = .idle ∧ c'.ERR = false ∧ c'.CAUSE = .none ∧ status c' = 0x04#8

/-- 10_state.md R39: the state every run begins in, for every descriptor. The values of `H`, `V` and `W` there are the
model's choice (log 2) and not stated. -/
def Obligations.ResetStateIsIdle : Prop :=
  ∀ F : Descriptor, (State.resetOf F).F = F ∧ (State.resetOf F).core.PH = .idle ∧
    (State.resetOf F).core.ERR = false ∧ (State.resetOf F).core.CAUSE = .none ∧
    status (State.resetOf F).core = 0x04#8

/-- 00_scope.md R16: the engine is never stuck: every step, from every state, has a next state. -/
def Obligations.EveryStepHasNextState : Prop := ∀ s : State, ∃ s' : State, step s = .next s'

/-- 20_memory.md R61, 70_reset_and_hazards.md R215: no step changes the descriptor. -/
def Obligations.DescriptorNeverChanges : Prop := ∀ s s' : State, step s = .next s' → s'.F = s.F

/-- 60_exceptions.md R194, R196, R198: `ERR` and `CAUSE` agree after every step from a state where they do. -/
def Obligations.FaultRegistersAgreeAfterEveryStep : Prop :=
  ∀ s s' : State, FaultRegistersAgree s → step s = .next s' → FaultRegistersAgree s'

/-- 10_state.md R39: `ERR` and `CAUSE` agree in the state after reset, for every descriptor. -/
def Obligations.FaultRegistersAgreeAtReset : Prop := ∀ F : Descriptor, FaultRegistersAgree (State.resetOf F)

/-- 60_exceptions.md R198: a step that leaves a fault is an accepted `INIT` or the RESET event. -/
def Obligations.OnlyInitAndResetLeaveFault : Prop :=
  ∀ s s' : State, s.core.ERR = true → step s = .next s' → s'.core.ERR = false →
    ∃ rest, s.port = .reset :: rest ∨ ∃ cmd, s.port = .command cmd :: rest ∧ decode s.F.bs cmd = .init

/-! ### Ports (10_state.md R28, R29; 44_serialization.md) -/

/-- 10_state.md R28: every field of the status port, and the numeral it is where `ERR` and `CAUSE` agree. -/
def Obligations.StatusPortFields : Prop :=
  ∀ s : State, FaultRegistersAgree s →
    (status s.core).extractLsb' 0 2 = s.core.PH.code ∧
    (status s.core).getLsbD 2 = true ∧
    ((status s.core).getLsbD 3 = true ↔ s.core.PH = .final ∧ s.core.ERR = false) ∧
    (status s.core).getLsbD 4 = s.core.ERR ∧
    (status s.core).extractLsb' 5 3 = s.core.CAUSE.code ∧
    (status s.core).toNat = s.core.CAUSE.code.toNat * 2 ^ 5 + s.core.ERR.toNat * 2 ^ 4 +
      (digestValid s.core).toNat * 2 ^ 3 + 1 * 2 ^ 2 + s.core.PH.code.toNat

/-- 10_state.md R29: while `digest_valid = 1` the digest port carries the running digest with `H[0]` most significant,
at every observation: `H[i] = digest[w*(nh-i)-1 : w*(nh-i-1)]`. -/
def Obligations.DigestPortCarriesRunningDigest : Prop :=
  ∀ (F : Descriptor) (c : CoreState F) (obs i : Nat), digestValid c = true → i < F.nh →
    (digestPort c obs).extractLsb' (F.w * (F.nh - i - 1)) F.w = RegFile.get c.H i

/-- 44_serialization.md R160, R163: for every running digest the string has exactly `dlen` characters, each one of
`0123456789abcdef`. -/
def Obligations.DigestStringLength : Prop :=
  ∀ (F : Descriptor) (H : RegFile F.w F.nh), (hexstr F H).length = F.dlen ∧
    ∀ c ∈ hexstr F H, c ∈ ['0', '1', '2', '3', '4', '5', '6', '7', '8', '9', 'a', 'b', 'c', 'd', 'e', 'f']

/-- 44_serialization.md R162 (derived there from R161 and R29): the string is the `dlen`-digit lowercase hexadecimal
numeral of the digest port value, the most significant digit first. -/
def Obligations.DigestStringIsPortNumeral : Prop :=
  ∀ (F : Descriptor) (H : RegFile F.w F.nh) (j : Nat), j < F.dlen →
    (hexstr F H).getD j ' ' = hexDigit ((digestValue F H).toNat / 16 ^ (F.dlen - 1 - j) % 16)

/-- 44_serialization.md R164: while `digest_valid = 1` the `digest_hex` port carries the ASCII code of character `c[j]`
in byte `j` from the top, at every observation. -/
def Obligations.DigestHexPortCarriesCodes : Prop :=
  ∀ (F : Descriptor) (c : CoreState F) (obs j : Nat), digestValid c = true → j < F.dlen →
    ((digestHexPort c obs).extractLsb' (8 * (F.dlen - 1 - j)) 8).toNat = ((hexstr F c.H).getD j ' ').toNat

/-! ### `PAD` (41_padding.md) -/

/-- R111, R112: the zero count is the least natural number with `(L + 1 + z) mod bs = bs - lw`, and has the closed form
of R112 (derived there). -/
def Obligations.ZeroCountIsLeastAndClosedForm : Prop :=
  ∀ (F : Descriptor) (L : Nat),
    (L + 1 + zeroCount F.toRawDescriptor L) % F.bs = F.bs - F.lw ∧
    (∀ z, (L + 1 + z) % F.bs = F.bs - F.lw → zeroCount F.toRawDescriptor L ≤ z) ∧
    (zeroCount F.toRawDescriptor L : Int) = ((F.bs : Int) - F.lw - 1 - L) % F.bs

/-- R113 (derived there): the padded length is `L + 1 + z + lw`, a multiple of `bs`, and the number of blocks is
`floor((L + lw) / bs) + 1`, never 0. -/
def Obligations.PaddedLengthAndBlockCount : Prop :=
  ∀ (F : Descriptor) (M : List Byte),
    (pad F.toRawDescriptor M).length = M.length + 1 + zeroCount F.toRawDescriptor M.length + F.lw ∧
    (pad F.toRawDescriptor M).length % F.bs = 0 ∧
    blockCount F.toRawDescriptor M = (M.length + F.lw) / F.bs + 1

/-- R116: segmentation cuts the padded message into consecutive blocks of exactly `bs` bytes, in message order. -/
def Obligations.SegmentationTilesPaddedMessage : Prop :=
  ∀ (F : Descriptor) (M : List Byte),
    (padBlocks F.toRawDescriptor M).flatten = pad F.toRawDescriptor M ∧
    (padBlocks F.toRawDescriptor M).length = blockCount F.toRawDescriptor M ∧
    ∀ block ∈ padBlocks F.toRawDescriptor M, block.length = F.bs

/-- R115 (derived there): the final blocks byte by byte, with `r = L mod bs` message bytes left over: one block when
they leave room for the `0x80` byte and the length field, otherwise two. -/
def Obligations.FinalBlocksOfPaddedMessage : Prop :=
  ∀ (F : Descriptor) (M : List Byte),
    let r := M.length % F.bs
    let rest := M.drop (M.length - r)
    (r + F.lw + 1 ≤ F.bs → (padBlocks F.toRawDescriptor M).getLast? =
      some (rest ++ [0x80#8] ++ List.replicate (F.bs - F.lw - 1 - r) 0x00#8 ++ lengthField F.toRawDescriptor M.length)) ∧
    (F.bs < r + F.lw + 1 →
      (padBlocks F.toRawDescriptor M).getLast? =
        some (List.replicate (F.bs - F.lw) 0x00#8 ++ lengthField F.toRawDescriptor M.length) ∧
      (padBlocks F.toRawDescriptor M).dropLast.getLast? =
        some (rest ++ [0x80#8] ++ List.replicate (F.bs - r - 1) 0x00#8))

/-- R111, R114: the length field is `lw` bytes long and reads, big-endian, as the bit length modulo `2^lbits`. -/
def Obligations.LengthFieldHoldsBitLength : Prop :=
  ∀ (F : Descriptor) (L : Nat), (lengthField F.toRawDescriptor L).length = F.lw ∧
    beNat (lengthField F.toRawDescriptor L) = 8 * L % 2 ^ F.lbits

/-! ### `DIGEST` and invocations (45_commands.md R178, 60_exceptions.md R202) -/

/-- R178: the expansion of `DIGEST(M)`, executed from any state whatever, completes without a fault: it ends in phase
`FINAL` with `status = 0x0F`, the running digest is `fold(IV, pad_blocks(F, M))`, and `SER` gives the digest of `M`, a
function of `F` and `M` alone. The descriptor, the events still to come and the count of resets do not change. The
premise is the one 93_implementation_defined.md U1 asks of a claim about `DIGEST(M)`. -/
def Obligations.DigestExpansionComputesDigest : Prop :=
  ∀ (s : State) (M : List Byte), 8 * M.length < 2 ^ s.F.lbits → ∃ c' : CoreState s.F,
    execAll (digestCommands s.F.toRawDescriptor M) s = .next { s with core := c' } ∧
    c'.PH = .final ∧ c'.ERR = false ∧ c'.CAUSE = .none ∧ status c' = 0x0F#8 ∧
    c'.H = chain s.F (ivFile s.F) (padBlocks s.F.toRawDescriptor M) ∧
    ser c' = some (digestFn s.F M)

/-- R178, 70_reset_and_hazards.md R221, 60_exceptions.md R202: the same at the command port: when the words of the
expansion are presented, `N + 1` steps run it, `N = floor((L + lw)/bs) + 1`, and leave what was to come after it. -/
def Obligations.DigestOnCommandPort : Prop :=
  ∀ (F : Descriptor) (c : CoreState F) (M : List Byte) (rest : List (PortEvent F.bs)) (n : Nat),
    8 * M.length < 2 ^ F.lbits → ∃ c' : CoreState F, run ((M.length + F.lw) / F.bs + 1 + 1)
      ⟨F, c, (digestCommands F.toRawDescriptor M).map (fun i => .command (encode F.bs i)) ++ rest, n⟩ =
      .next ⟨F, c', rest, n⟩ ∧
    digestValid c' = true ∧ ser c' = some (digestFn F M)

/-- 60_exceptions.md R202 (derived there): whenever `digest_valid = 1` after a run of any events from a state in phase
`IDLE`, the commands since the last `INIT` were zero or more `NEXT` and one `NEXTL`, with `NOP`s anywhere between them,
and `H = fold(IV, blocks)`. -/
def Obligations.ValidDigestComesFromInvocation : Prop :=
  ∀ (F : Descriptor) (c c' : CoreState F) (events : List (PortEvent F.bs)) (n n' : Nat), c.PH = .idle →
    run events.length ⟨F, c, events, n⟩ = .next ⟨F, c', [], n'⟩ → digestValid c' = true →
    ∃ blocks, EndsInInvocation F events blocks ∧ c'.H = chain F (ivFile F) blocks

/-! ### Construction and instances (00_scope.md, 60_exceptions.md) -/

/-- 00_scope.md R8, R9, R10: `WF(F)` is exactly the conditions the three rules list. -/
def Obligations.WellFormedExactlyTheConditions : Prop :=
  ∀ F : RawDescriptor, F.wellFormed = true ↔
    (F.bs % F.ws = 0 ∧ F.bs / F.ws ≤ F.nr ∧ F.IV.length = F.nh ∧ F.K.length = F.nk ∧
      (∀ v ∈ F.IV, v < 2 ^ (8 * F.ws)) ∧ (∀ v ∈ F.K, v < 2 ^ (8 * F.ws))) ∧
    (1 ≤ F.lw ∧ F.lw ≤ F.bs) ∧
    (F.fam = .sha1 → F.ws = 4 ∧ F.nh = 5 ∧ F.bs / F.ws = 16 ∧ F.bs = 64 ∧ F.nr ≤ 80 ∧ (F.nr - 1) / 20 + 1 ≤ F.nk) ∧
    (F.fam = .sha2_64 → F.ws = 8 ∧ F.nh = 8 ∧ 16 ≤ F.bs / F.ws ∧ F.nr ≤ F.nk)

/-- R191, R192, R199 (with the clause on the descriptor's own tag, the model's choice, log 11): an unknown selector is
refused before the descriptor is looked at; a known one builds the descriptor exactly when it is well-formed and of the
selected family. -/
def Obligations.ConstructionChecksFamilyFirst : Prop :=
  ∀ (sel : Selector) (F : RawDescriptor),
    (sel.family = none → construct sel F = .error .unsupportedFamily) ∧
    (∀ fam, sel.family = some fam →
      (F.fam = fam ∧ F.wellFormed = true → ∃ D : Descriptor, construct sel F = .ok D ∧ D.toRawDescriptor = F) ∧
      (¬(F.fam = fam ∧ F.wellFormed = true) → construct sel F = .error .malformedDescriptor))

/-- 60_exceptions.md R204, 20_memory.md R63: any interleaving of the instances gives each the result of running alone,
for as many steps as it was given. -/
def Obligations.InstancesDoNotInterfere : Prop :=
  ∀ (order : List Nat) (fabric fabric' : Fabric), runInstances order fabric = .next fabric' →
    ∀ (j : Nat) (s : State), fabric[j]? = some s →
      ∃ s', fabric'[j]? = some s' ∧ run (order.count j) s = .next s'
end

