-- ==== Sys2Proof/Laws/Descriptor.lean ====
section
/-! SUPPORT. What `WF(F)` gives, one fact a lemma (spec 00_scope.md R8 to R10). -/

namespace Sys2Proof.Descriptor

variable (F : Descriptor)

/-- The check of a descriptor of family `SHA1` passed. -/
theorem wf_sha1 (h : F.fam = .sha1) :
    F.ws = 4 ∧ F.nh = 5 ∧ F.cc = 16 ∧ F.bs = 64 ∧ F.nr ≤ 80 ∧ (F.nr - 1) / 20 + 1 ≤ F.nk := by
  have := F.wf
  simp only [RawDescriptor.wellFormed, h, RawDescriptor.wfSha1, Bool.and_eq_true, beq_iff_eq, decide_eq_true_eq] at this
  tauto

/-- The check of a descriptor of family `SHA2_64` passed. -/
theorem wf_sha2 (h : F.fam = .sha2_64) : F.ws = 8 ∧ F.nh = 8 ∧ 16 ≤ F.cc ∧ F.nr ≤ F.nk := by
  have := F.wf
  simp only [RawDescriptor.wellFormed, h, RawDescriptor.wfSha2, Bool.and_eq_true, beq_iff_eq, decide_eq_true_eq] at this
  tauto

theorem wf_document : F.bs % F.ws = 0 ∧ F.cc ≤ F.nr ∧ F.IV.length = F.nh ∧ F.K.length = F.nk ∧
    (∀ v ∈ F.IV, v < 2 ^ F.w) ∧ (∀ v ∈ F.K, v < 2 ^ F.w) := by
  have := F.wf
  simp only [RawDescriptor.wellFormed, RawDescriptor.wfDocument, Bool.and_eq_true, beq_iff_eq, decide_eq_true_eq,
    List.all_eq_true] at this
  tauto

/-- The length field is not empty and fits a block (R9, R10). -/
theorem wf_length : 1 ≤ F.lw ∧ F.lw ≤ F.bs := by
  have := F.wf
  simp only [RawDescriptor.wellFormed, RawDescriptor.wfLength, Bool.and_eq_true, decide_eq_true_eq] at this
  tauto

theorem cc_le_nr : F.cc ≤ F.nr := F.wf_document.2.1

theorem sixteen_le_cc : 16 ≤ F.cc := by
  cases h : F.fam with
  | sha1 => exact (F.wf_sha1 h).2.2.1.ge
  | sha2_64 => exact (F.wf_sha2 h).2.2.1

theorem ws_pos : 0 < F.ws := by
  cases h : F.fam with
  | sha1 => rw [(F.wf_sha1 h).1]; decide
  | sha2_64 => rw [(F.wf_sha2 h).1]; decide

/-- The words tile the block exactly (20_memory.md R54). -/
theorem bs_eq : F.bs = F.ws * F.cc := by
  have := Nat.div_add_mod F.bs F.ws
  rw [F.wf_document.1] at this
  simpa [RawDescriptor.cc] using this.symm

theorem bs_pos : 0 < F.bs := by
  rw [F.bs_eq]
  exact Nat.mul_pos F.ws_pos (Nat.lt_of_lt_of_le (by decide) F.sixteen_le_cc)

/-- The word width of each family (R6). -/
theorem w_eq : F.w = match F.fam with | .sha1 => 32 | .sha2_64 => 64 := by
  cases h : F.fam with
  | sha1 => simp [RawDescriptor.w, (F.wf_sha1 h).1]
  | sha2_64 => simp [RawDescriptor.w, (F.wf_sha2 h).1]

end Sys2Proof.Descriptor
end

