-- ==== Sys2Proof/Laws/State.lean ====
section
/-! SUPPORT. What each update of the state gives in each field; later proofs cite these and unfold no record
update. -/

namespace Sys2Proof.Machine

variable {F : Descriptor}

/-! ### Fault entry (60_exceptions.md R196) -/

@[simp] theorem raiseFault_F (c : Cause) (s : State) : (raiseFault c s).F = s.F := rfl
@[simp] theorem raiseFault_PH (c : Cause) (s : State) : (raiseFault c s).core.PH = s.core.PH := rfl
@[simp] theorem raiseFault_ERR (c : Cause) (s : State) : (raiseFault c s).core.ERR = true := rfl
@[simp] theorem raiseFault_CAUSE (c : Cause) (s : State) : (raiseFault c s).core.CAUSE = c := rfl
@[simp] theorem raiseFault_H (c : Cause) (s : State) : (raiseFault c s).core.H = s.core.H := rfl
@[simp] theorem raiseFault_V (c : Cause) (s : State) : (raiseFault c s).core.V = s.core.V := rfl
@[simp] theorem raiseFault_W (c : Cause) (s : State) : (raiseFault c s).core.W = s.core.W := rfl
@[simp] theorem raiseFault_port (c : Cause) (s : State) : (raiseFault c s).port = s.port := rfl
@[simp] theorem raiseFault_resets (c : Cause) (s : State) : (raiseFault c s).resets = s.resets := rfl

/-! ### Leaving a fault (60_exceptions.md R198) -/

@[simp] theorem leaveFault_PH (c : CoreState F) : (leaveFault c).PH = c.PH := rfl
@[simp] theorem leaveFault_ERR (c : CoreState F) : (leaveFault c).ERR = false := rfl
@[simp] theorem leaveFault_CAUSE (c : CoreState F) : (leaveFault c).CAUSE = .none := rfl
@[simp] theorem leaveFault_H (c : CoreState F) : (leaveFault c).H = c.H := rfl
@[simp] theorem leaveFault_V (c : CoreState F) : (leaveFault c).V = c.V := rfl
@[simp] theorem leaveFault_W (c : CoreState F) : (leaveFault c).W = c.W := rfl

/-! ### Reset (10_state.md R39) -/

variable (fill : RegFileName → Nat → BitVec F.w)

@[simp] theorem reset_PH : (CoreState.reset F fill).PH = .idle := rfl
@[simp] theorem reset_ERR : (CoreState.reset F fill).ERR = false := rfl
@[simp] theorem reset_CAUSE : (CoreState.reset F fill).CAUSE = .none := rfl
@[simp] theorem resetEvent_F (s : State) : (resetEvent s).F = s.F := rfl
@[simp] theorem resetEvent_PH (s : State) : (resetEvent s).core.PH = .idle := rfl
@[simp] theorem resetEvent_ERR (s : State) : (resetEvent s).core.ERR = false := rfl
@[simp] theorem resetEvent_CAUSE (s : State) : (resetEvent s).core.CAUSE = .none := rfl
@[simp] theorem resetEvent_port (s : State) : (resetEvent s).port = s.port := rfl
@[simp] theorem resetEvent_resets (s : State) : (resetEvent s).resets = s.resets + 1 := rfl

/-! ### What the host presents -/

@[simp] theorem presentCommand_F (s : State) (cmd : BitVec (cmdWidth s.F.bs)) : (presentCommand s cmd).F = s.F := rfl
@[simp] theorem presentCommand_core (s : State) (cmd : BitVec (cmdWidth s.F.bs)) :
    (presentCommand s cmd).core = s.core := rfl
@[simp] theorem presentCommand_port (s : State) (cmd : BitVec (cmdWidth s.F.bs)) :
    (presentCommand s cmd).port = .command cmd :: s.port := rfl

/-! ### Micro-operations leave the sequencer's registers alone (10_state.md R22) -/

@[simp] theorem MicroOp.run_PH (block : List Byte) (c : CoreState F) (op : MicroOp) :
    (MicroOp.run block c op).PH = c.PH := by cases op <;> rfl

@[simp] theorem MicroOp.run_ERR (block : List Byte) (c : CoreState F) (op : MicroOp) :
    (MicroOp.run block c op).ERR = c.ERR := by cases op <;> rfl

@[simp] theorem MicroOp.run_CAUSE (block : List Byte) (c : CoreState F) (op : MicroOp) :
    (MicroOp.run block c op).CAUSE = c.CAUSE := by cases op <;> rfl

end Sys2Proof.Machine
end

