-- ==== Sys2Proof/Laws/Ops.lean ====
section
/-! SUPPORT. For each shared operation, everything it can do (spec 45_commands.md R170, R176). -/

namespace Sys2Proof.Machine

/-- A command behind the check of the latched fault either is discarded or runs (60_exceptions.md R197). -/
theorem unlessFaulted_cases {s : State} {k : State → Host.Outcome State Fault Refusal}
    {o : Host.Outcome State Fault Refusal} (h : unlessFaulted s k = o) :
    s.core.ERR = true ∧ o = .next s ∨ s.core.ERR = false ∧ o = k s := by
  unfold unlessFaulted at h
  cases he : s.core.ERR <;> simp [he] at h <;> simp [h]

/-- Everything a reserved code can do. -/
theorem illegalCommand_cases {s : State} {o : Host.Outcome State Fault Refusal} (h : illegalCommand s = o) :
    s.core.ERR = true ∧ o = .next s ∨ s.core.ERR = false ∧ o = .next (raiseFault .illegalCmd s) :=
  unlessFaulted_cases h

/-- Everything `NEXT` or `NEXTL` can do. -/
theorem compressThen_cases {after : Phase} {block : List Byte} {s : State}
    {o : Host.Outcome State Fault Refusal} (h : compressThen after block s = o) :
    s.core.ERR = true ∧ o = .next s ∨
    s.core.ERR = false ∧ s.core.PH.takesBlock = false ∧ o = .next (raiseFault .phase s) ∨
    s.core.ERR = false ∧ s.core.PH.takesBlock = true ∧ block.length = s.F.bs ∧
      o = .next { s with core := { blockSeq block s.core with PH := after } } ∨
    s.core.ERR = false ∧ s.core.PH.takesBlock = true ∧ block.length ≠ s.F.bs ∧ o = .fault .blockWidth := by
  rcases unlessFaulted_cases h with ⟨he, ho⟩ | ⟨he, ho⟩
  · exact .inl ⟨he, ho⟩
  · by_cases hp : s.core.PH.takesBlock = true
    · by_cases hb : block.length = s.F.bs <;> simp [hp, hb] at ho <;> simp [he, hp, hb, ho]
    · simp [hp] at ho
      simp [he, Bool.eq_false_iff.mpr hp, ho]

/-- A run of micro-operations leaves `PH`, `ERR` and `CAUSE` alone. -/
theorem runOps_sequencer {F : Descriptor} (block : List Byte) (ops : List MicroOp) (c : CoreState F) :
    (ops.foldl (MicroOp.run block) c).PH = c.PH ∧ (ops.foldl (MicroOp.run block) c).ERR = c.ERR ∧
      (ops.foldl (MicroOp.run block) c).CAUSE = c.CAUSE := by
  induction ops generalizing c with
  | nil => exact ⟨rfl, rfl, rfl⟩
  | cons op ops ih => simpa using ih (MicroOp.run block c op)

@[simp] theorem blockSeq_PH {F : Descriptor} (block : List Byte) (c : CoreState F) :
    (blockSeq block c).PH = .pending := (runOps_sequencer block (blockOps F) _).1

@[simp] theorem blockSeq_ERR {F : Descriptor} (block : List Byte) (c : CoreState F) :
    (blockSeq block c).ERR = c.ERR := (runOps_sequencer block (blockOps F) _).2.1

@[simp] theorem blockSeq_CAUSE {F : Descriptor} (block : List Byte) (c : CoreState F) :
    (blockSeq block c).CAUSE = c.CAUSE := (runOps_sequencer block (blockOps F) _).2.2

end Sys2Proof.Machine
end

