-- ==== Sys2Proof/Laws/PerInstr.lean ====
section
/-! SUPPORT. What holds of every instruction as syntax, one lemma per constructor. -/

namespace Sys2Proof.Laws

/-- The operation field of a command word assembled from its two fields (spec 30_encoding.md R71). -/
theorem cmdOp_cmdWord {bs : Nat} (op : BitVec 3) (block : BitVec (8 * bs)) : cmdOp (cmdWord op block) = op := by
  unfold cmdOp cmdWord
  ext i hi
  simp [BitVec.getLsbD_append, BitVec.getLsbD_eq_getElem hi]

namespace OpField

/-- The operation field of the encoding is the code the opcode map gives the command, whatever the block size and the
operand (spec 30_encoding.md R71, R73, R74). -/
def Statement (i : Instr) : Prop := ∀ bs : Nat, cmdOp (encode bs i) = i.opcode

theorem of_instr (i : Instr) : Statement i := fun _ => cmdOp_cmdWord _ _

theorem nop : Statement .nop := of_instr _

theorem init : Statement .init := of_instr _

theorem next (block : List Byte) : Statement (.next block) := of_instr _

theorem nextl (block : List Byte) : Statement (.nextl block) := of_instr _

theorem reserved011 : Statement .reserved011 := of_instr _

theorem reserved100 : Statement .reserved100 := of_instr _

theorem reserved101 : Statement .reserved101 := of_instr _

theorem reserved111 : Statement .reserved111 := of_instr _

end OpField

end Sys2Proof.Laws
end

