-- ==== Sys2Proof/Laws/RegFile.lean ====
section
/-! SUPPORT. What reading a register file gives after each way of writing one. -/

namespace Sys2Proof.Machine.RegFile

variable {w n : Nat}

theorem get_of_lt (r : RegFile w n) {i : Nat} (h : i < n) : get r i = r[i] := by
  simp [get, Vector.getD, h]

theorem get_of_ge (r : RegFile w n) {i : Nat} (h : n ≤ i) : get r i = 0 := by
  simp [get, Vector.getD, Nat.not_lt.mpr h]

@[simp] theorem get_put_self (r : RegFile w n) {i : Nat} (h : i < n) (v : BitVec w) : get (put r i v) i = v := by
  rw [get_of_lt _ h]; simp [put]

@[simp] theorem get_put_of_ne (r : RegFile w n) {i j : Nat} (h : i ≠ j) (v : BitVec w) :
    get (put r i v) j = get r j := by
  by_cases hj : j < n
  · rw [get_of_lt _ hj, get_of_lt _ hj]; simp [put, h]
  · rw [get_of_ge _ (Nat.le_of_not_lt hj), get_of_ge _ (Nat.le_of_not_lt hj)]

@[simp] theorem get_ofFn (f : Nat → BitVec w) {i : Nat} (h : i < n) : get (ofFn f : RegFile w n) i = f i := by
  rw [get_of_lt _ h]; simp [ofFn]

@[simp] theorem get_ofWords (xs : List (BitVec w)) {i : Nat} (h : i < n) :
    get (ofWords xs : RegFile w n) i = xs.getD i 0 := get_ofFn _ h

/-- Two register files are equal when every register is. -/
theorem ext_get {r q : RegFile w n} (h : ∀ i, i < n → get r i = get q i) : r = q := by
  apply Vector.ext
  intro i hi
  rw [← get_of_lt _ hi, ← get_of_lt _ hi, h i hi]

@[simp] theorem ofFn_get (r : RegFile w n) : ofFn (get r) = r := ext_get fun _ h => get_ofFn _ h

end Sys2Proof.Machine.RegFile
end

