-- ==== Sys2Proof/Laws/Step.lean ====
section
/-! SUPPORT. What a step does with the list of events. -/

namespace Sys2Proof.Machine

/-- With nothing left to present, a step changes nothing (30_encoding.md R70). -/
theorem step_of_port_nil {s : State} (h : s.port = []) : step s = .next s := by
  unfold step takeEvent
  split
  · rfl
  · rename_i h'; rw [h] at h'; cases h'

/-- A step with an event left is that event, with the rest still to come. -/
theorem step_of_port_cons (F : Descriptor) (c : CoreState F) (e : PortEvent F.bs) (rest : List (PortEvent F.bs))
    (n : Nat) : step ⟨F, c, e :: rest, n⟩ = acceptEvent ⟨F, c, rest, n⟩ e := rfl

end Sys2Proof.Machine
end

