-- ==== Sys2Proof/Tests/Slice0.lean ====
section
/-! SUPPORT. Tests. Expected values are the spec's (95_test_vectors.md and 96_test_traces.md, by section) or counted by
hand from the rule named. The theorems `test_witness_…` show, for each statement with hypotheses, a concrete input
that meets them. -/

namespace Sys2Proof.Tests

set_option maxRecDepth 100000
set_option Elab.async false
set_option exponentiation.threshold 600

open Sys2Proof.Machine

/-! ### Helpers -/

/-- `F_SHA1` with `nr = 16`, `nk = 1`: well-formed, "not a standard hash" (§8.3); small, for the tests whose outcome
does not depend on the descriptor. -/
def rawMini : RawDescriptor := { rawSha1 with nr := 16, nk := 1, K := [0x5A827999] }

def mini : Descriptor := ⟨rawMini, by decide⟩

def coreWith (F : Descriptor) (PH : Phase) (ERR : Bool) (CAUSE : Cause) : CoreState F :=
  { CoreState.reset F (fun _ _ => 0) with PH := PH, ERR := ERR, CAUSE := CAUSE, H := ivFile F }

def stateWith (F : Descriptor) (PH : Phase) (ERR : Bool) (CAUSE : Cause) : State := ⟨F, coreWith F PH ERR CAUSE, [], 0⟩

/-- The start states of §8.1 (no fault, the four phases) and of §8.2 (a fault latched). -/
def starts : List State :=
  [stateWith mini .idle false .none, stateWith mini .pending false .none, stateWith mini .compressed false .none,
   stateWith mini .final false .none, stateWith mini .idle true .phase, stateWith mini .final true .phase,
   stateWith mini .pending true .illegalCmd, stateWith mini .compressed true .illegalCmd]

def nextState : Host.Outcome State Fault Refusal → Option State
  | .next s => some s
  | .fault _ => none
  | .refused _ => none

/-- The status port after an outcome, as a numeral. -/
def statusAfter (o : Host.Outcome State Fault Refusal) : Option Nat := (nextState o).map fun s => (status s.core).toNat

/-- `H` after an outcome, as numerals. -/
def digestAfter (o : Host.Outcome State Fault Refusal) : Option (List Nat) :=
  (nextState o).map fun s => s.core.H.toList.map BitVec.toNat

def statusRow (i : Instr) : List (Option Nat) := starts.map fun s => statusAfter (exec i s)

def words (w n : Nat) (xs : List Nat) : RegFile w n := RegFile.ofWords (xs.map (BitVec.ofNat w))

def numerals {w n : Nat} (r : RegFile w n) : List Nat := r.toList.map BitVec.toNat

/-- The block of "abc", §3.2. -/
def abc1 : List Byte := [0x61, 0x62, 0x63, 0x80] ++ List.replicate 59 0x00#8 ++ [0x18]

def abc512 : List Byte := [0x61, 0x62, 0x63, 0x80] ++ List.replicate 123 0x00#8 ++ [0x18]

/-! ### Well-formed commands -/

theorem test_wf_next_refuses_short_block : Instr.wellFormed 64 (.next (List.replicate 63 0)) = false := by decide

theorem test_wf_nextl_refuses_long_block : Instr.wellFormed 64 (.nextl (List.replicate 65 0)) = false := by decide

theorem test_wf_accepts : Instr.wellFormed 64 (.next abc1) = true ∧ Instr.wellFormed 128 (.nextl abc512) = true ∧
    Instr.wellFormed 64 .init = true := by decide

/-! ### Descriptors and construction (§8.3) -/

theorem test_descriptor_refusals :
    ([{ rawSha1 with bs := 66 }, { rawSha1 with bs := 128 }, { rawSha1 with nr := 100 }, { rawSha1 with nr := 10 },
      { rawSha1 with nk := 3, K := sha1K.take 3 }, { rawSha1 with lw := 0 }, { rawSha1 with lw := 65 },
      { rawSha1 with IV := sha1IV.take 4 }, { rawSha1 with K := 0x100000000 :: sha1K.drop 1 },
      { rawSha512 with nk := 79, K := sha512K.take 79 }, { rawSha512 with ws := 4 },
      { rawSha512 with bs := 64 }] : List RawDescriptor).map RawDescriptor.wellFormed = List.replicate 12 false := by
  decide +kernel

theorem test_descriptor_acceptances :
    ([rawSha1, rawSha512, rawMini, { rawSha1 with lw := 64 }, { rawSha512 with bs := 256 },
      { rawSha512 with nr := 64 }] : List RawDescriptor).map RawDescriptor.wellFormed = List.replicate 6 true := by
  decide +kernel

def constructionError (o : Except ConstructionRefusal Descriptor) : Option ConstructionRefusal :=
  match o with
  | .ok _ => none
  | .error e => some e

theorem test_construction :
    constructionError (construct (.enumerant 0) rawSha1) = none ∧
    constructionError (construct (.name ['S', 'H', 'A', '-', '5', '1', '2']) rawSha512) = none ∧
    constructionError (construct (.enumerant 2) rawSha1) = some .unsupportedFamily ∧
    constructionError (construct (.name ['s', 'h', 'a', '-', '1']) rawSha1) = some .unsupportedFamily ∧
    constructionError (construct (.name ['S', 'H', 'A', '1']) rawSha1) = some .unsupportedFamily ∧
    constructionError (construct (.enumerant 0) { rawSha1 with bs := 66 }) = some .malformedDescriptor ∧
    constructionError (construct (.enumerant 2) { rawSha1 with bs := 66 }) = some .unsupportedFamily := by
  decide +kernel

theorem test_derived_quantities :
    fSha1.w = 32 ∧ fSha1.cc = 16 ∧ fSha1.dbits = 160 ∧ fSha1.dlen = 40 ∧ fSha1.lbits = 64 ∧ cmdWidth fSha1.bs = 515 ∧
    fSha512.w = 64 ∧ fSha512.cc = 16 ∧ fSha512.dbits = 512 ∧ fSha512.dlen = 128 ∧ fSha512.lbits = 128 ∧
    cmdWidth fSha512.bs = 1027 := by decide

/-- The first `n` primes, by trial division. -/
def primes (n : Nat) : List Nat :=
  ((List.range 420).filter fun p => 2 ≤ p && (List.range p).all fun d => d < 2 || p % d != 0).take n

/-- `v` is the `n`-th root of `p`, scaled by `2^64` and rounded down, less whole multiples of `2^64` (at most 8). -/
def isFractionOfRoot (n p v : Nat) : Bool :=
  (List.range 9).any fun m => (m * 2 ^ 64 + v) ^ n ≤ p * 2 ^ (64 * n) && p * 2 ^ (64 * n) < (m * 2 ^ 64 + v + 1) ^ n

/-- The formulas 10_state.md R35 and R36 give for the tables of `F_SHA512`, entry by entry. -/
theorem test_sha512_tables_are_roots_of_primes :
    sha512IV.length = 8 ∧ ((primes 8).zip sha512IV).all (fun e => isFractionOfRoot 2 e.1 e.2) = true ∧
    sha512K.length = 80 ∧ ((primes 80).zip sha512K).all (fun e => isFractionOfRoot 3 e.1 e.2) = true ∧
    (primes 80).length = 80 ∧ (primes 80).getLast? = some 409 ∧
    (sha512IV ++ sha512K).all (fun v => decide (v < 2 ^ 64)) = true := by decide +kernel

/-! ### Decoding and encoding (30_encoding.md R71 to R76; the encodings of §9) -/

/-- With blocks of one byte, each command word written out bit by bit: three bits of `cmd_op`, eight of `cmd_block`. -/
theorem test_decode_bit_by_bit :
    decode 1 0b00010110011#11 = .nop ∧ decode 1 0b00100000000#11 = .init ∧
    decode 1 0b01001100001#11 = .next [0x61] ∧ decode 1 0b11010000000#11 = .nextl [0x80] ∧
    decode 1 0b01100000000#11 = .reserved011 ∧ decode 1 0b10000000000#11 = .reserved100 ∧
    decode 1 0b10111111111#11 = .reserved101 ∧ decode 1 0b11101100001#11 = .reserved111 := by decide +kernel

/-- Program P2, line 3: `110` and the block of "abc". -/
theorem test_decode_p2_nextl :
    decode 64 (cmdWord 0b110#3 0x61626380000000000000000000000000000000000000000000000000000000000000000000000000000000000000000000000000000000000000000000000018#512)
      = .nextl abc1 := by decide +kernel

/-- The same word on `sha512_core`, program P3, line 3. -/
theorem test_decode_p3_nextl :
    decode 128 (cmdWord 0b110#3 0x6162638000000000000000000000000000000000000000000000000000000000000000000000000000000000000000000000000000000000000000000000000000000000000000000000000000000000000000000000000000000000000000000000000000000000000000000000000000000000000000000000000000000018#1024)
      = .nextl abc512 := by decide +kernel

theorem test_encode_next : encode 2 (.next [0x61, 0x62]) = 0b0100110000101100010#19 := by decide +kernel

def decoded (o : Except DecodeError Instr) : Option Instr :=
  match o with
  | .ok i => some i
  | .error _ => none

/-- R75: a word of another length is refused. -/
theorem test_decode_word_length :
    decoded (decodeBits 1 [false, true, false, false, true, true, false, false, false, false, true]) =
      some (.next [0x61]) ∧
    decoded (decodeBits 1 [false, true, false, false, true, true, false, false, false, false]) = none := by
  decide +kernel

/-- The table numbers `cmd_op` from bit 0: 6 is `110`, and bit 3 is `cmd_block[0]` (log 6). -/
theorem test_decode_table_word :
    decodeTableWord 8 0 = some .nop ∧ decodeTableWord 8 1 = some .init ∧
    decodeTableWord 8 6 = some (.nextl (List.replicate 64 0)) ∧
    decodeTableWord 8 0b00001010 = some (.next (List.replicate 63 0 ++ [1])) ∧
    decodeTableWord 8 3 = some .reserved011 ∧ decodeTableWord 8 4 = some .reserved100 ∧
    decodeTableWord 8 5 = some .reserved101 ∧ decodeTableWord 8 7 = some .reserved111 := by decide +kernel

def parsed (o : Except LineError (Option Line)) : Option (Option Line) :=
  match o with
  | .ok l => some l
  | .error _ => none

/-- R76, with blocks of one byte. -/
theorem test_assembler_lines :
    parsed (parseLine 1 ['R', 'E', 'S', 'E', 'T']) = some (some .reset) ∧
    parsed (parseLine 1 ['N', 'O', 'P', ' ', ' ', ';', ' ', 'x']) = some (some (.command .nop)) ∧
    parsed (parseLine 1 ['N', 'E', 'X', 'T', ' ', '8', '0']) = some (some (.command (.next [0x80]))) ∧
    parsed (parseLine 1 ['N', 'E', 'X', 'T', 'L', ' ', '6', '1', ' ', ';']) = some (some (.command (.nextl [0x61]))) ∧
    parsed (parseLine 1 [';', 'x']) = some none ∧
    parsed (parseLine 1 ['N', 'E', 'X', 'T', ' ', '8', '0', '0']) = none ∧
    parsed (parseLine 1 ['n', 'o', 'p']) = none ∧
    encodingText 1 (.next [0x80]) = ['0', '1', '0', ' ', '8', '0'] ∧
    encodingText 1 .init = ['0', '0', '1', ' ', '0', '0'] := by decide +kernel

/-! ### Word arithmetic (§6) -/

theorem test_add :
    addW 0xffffffff#32 0x00000001#32 = 0 ∧ addW 0x67452301#32 0xefcdab89#32 = 0x5712ce8a#32 ∧
    addW 0xffffffffffffffff#64 2#64 = 1#64 ∧
    addW 0x6a09e667f3bcc908#64 0x73a54f399fa4b1b2#64 = 0xddaf35a193617aba#64 := by decide

theorem test_rotl :
    rotlW 0x80000000#32 1 = 0x00000001#32 ∧ rotlW 0x67452301#32 5 = 0xe8a4602c#32 ∧
    rotlW 0xefcdab89#32 30 = 0x7bf36ae2#32 ∧ rotlW 0x61626380#32 1 = 0xc2c4c700#32 := by decide

theorem test_rotr :
    rotrW 0x0000000000000001#64 61 = 0x0000000000000008#64 ∧ rotrW 0x6a09e667f3bcc908#64 28 = 0x3bcc9086a09e667f#64 ∧
    rotrW 0x6a09e667f3bcc908#64 39 = 0xcfe7799210d413cc#64 ∧
    rotrW 0x510e527fade682d1#64 41 = 0x3fd6f34168a88729#64 := by decide

theorem test_shr_not_and_or_xor :
    shrW 0x8000000000000000#64 7 = 0x0100000000000000#64 ∧ shrW 0xffffffffffffffff#64 6 = 0x03ffffffffffffff#64 ∧
    notW 0xefcdab89#32 = 0x10325476#32 ∧ notW 0x510e527fade682d1#64 = 0xaef1ad8052197d2e#64 ∧
    andW 0xefcdab89#32 0x98badcfe#32 = 0x88888888#32 ∧ orW 0x88888888#32 0x10101010#32 = 0x98989898#32 ∧
    xorW 0xefcdab89#32 0x98badcfe#32 = 0x77777777#32 := by decide

/-! ### Scheduler and rounds (§7.1 to §7.3; 96_test_traces.md 4.1, 5.1) -/

theorem test_sigmas :
    smallSigma0 0xffffffffffffffff#64 = 0x01ffffffffffffff#64 ∧
    smallSigma0 0x0123456789abcdef#64 = 0x6f92c77c6c4f1aa1#64 ∧
    smallSigma1 0x0123456789abcdef#64 = 0x70a3460dbbd4317a#64 ∧
    bigSigma0 0x0123456789abcdef#64 = 0xb7c57a100c7ec1ab#64 ∧
    bigSigma1 0x0123456789abcdef#64 = 0x7703112333475567#64 := by decide

theorem test_select_parity_majority :
    fCh 0xf0f0f0f0#32 0xcccccccc#32 0xaaaaaaaa#32 = 0xcacacaca#32 ∧
    fPar 0xf0f0f0f0#32 0xcccccccc#32 0xaaaaaaaa#32 = 0x96969696#32 ∧
    fMaj 0xf0f0f0f0#32 0xcccccccc#32 0xaaaaaaaa#32 = 0xe8e8e8e8#32 ∧
    ch 0x510e527fade682d1#64 0x9b05688c2b3e6c1f#64 0x1f83d9abfb41bd6b#64 = 0x1f85c98c7b273d3b#64 ∧
    maj 0x6a09e667f3bcc908#64 0xbb67ae8584caa73b#64 0x3c6ef372fe94f82b#64 = 0x3a6fe667f69ce92b#64 := by decide

/-- 96_test_traces.md 4.1 and 5.1. -/
theorem test_schedules :
    [16, 17, 18, 79].map (fun i => (RegFile.get (sched fSha1 abc1) i).toNat) =
      [0xc2c4c700, 0, 0x30, 0x822e0879] ∧
    [0, 15, 16, 17, 18, 79].map (fun i => (RegFile.get (sched fSha512 abc512) i).toNat) =
      [0x6162638000000000, 0x18, 0x6162638000000000, 0x00030000000000c0, 0x0a9699a24c700003,
        0x92aeeed1a7bcf7d2] := by decide +kernel

/-- §7.3, the second table: the four bands. -/
theorem test_round1_bands :
    [0, 20, 40, 60].map (fun t => numerals (roundOp fSha1 t 0 (words _ _ [0, 0xffffffff, 0, 0xffffffff, 0]))) =
      [[0x5a827999, 0, 0xffffffff, 0, 0xffffffff], [0x6ed9eba1, 0, 0xffffffff, 0, 0xffffffff],
       [0x8f1bbcdb, 0, 0xffffffff, 0, 0xffffffff], [0xca62c1d6, 0, 0xffffffff, 0, 0xffffffff]] := by decide +kernel

/-- §7.3, the last row: wrap in `T1` and in `d + T1`. -/
theorem test_round2_wraps :
    numerals (roundOp fSha512 0 0xffffffffffffffff#64 (words _ _ [0, 0, 0, 0xffffffffffffffff, 0, 0, 0, 1])) =
      [0x428a2f98d728ae22, 0, 0, 0, 0x428a2f98d728ae21, 0, 0, 0] := by decide +kernel

/-! ### `PAD` (§3) -/

theorem test_pad_boundaries :
    padBlocks rawSha1 [0x61, 0x62, 0x63] = [abc1] ∧ padBlocks rawSha512 [0x61, 0x62, 0x63] = [abc512] ∧
    padBlocks rawSha1 (List.replicate 55 0x61) =
      [List.replicate 55 0x61 ++ [0x80, 0, 0, 0, 0, 0, 0, 0x01, 0xb8]] ∧
    padBlocks rawSha1 (List.replicate 56 0x61) =
      [List.replicate 56 0x61 ++ [0x80, 0, 0, 0, 0, 0, 0, 0], List.replicate 62 0 ++ [0x01, 0xc0]] ∧
    padBlocks rawSha1 (List.replicate 64 0x61) =
      [List.replicate 64 0x61, 0x80 :: (List.replicate 61 0 ++ [0x02, 0x00])] := by decide +kernel

/-- §3.5: the length field is truncated. -/
theorem test_length_field_truncation :
    lengthField rawSha1 (2 ^ 61 - 1) = [0xff, 0xff, 0xff, 0xff, 0xff, 0xff, 0xff, 0xf8] ∧
    lengthField rawSha1 (2 ^ 61 + 3) = [0, 0, 0, 0, 0, 0, 0, 0x18] ∧
    zeroCount rawSha1 (2 ^ 61 - 1) = 56 ∧ zeroCount rawSha512 (2 ^ 125) = 111 := by decide +kernel

/-! ### `SER` and the ports (§7.5) -/

theorem test_hexw :
    hexw 4 0x0000000a#32 = ['0', '0', '0', '0', '0', '0', '0', 'a'] ∧
    hexw 4 0xABCDEF01#32 = ['a', 'b', 'c', 'd', 'e', 'f', '0', '1'] ∧
    (hexw 8 0x000000000000000f#64).length = 16 := by decide +kernel

def finalSha1 : CoreState fSha1 :=
  { coreWith fSha1 .final false .none with
    H := words _ _ [0xda39a3ee, 0x5e6b4b0d, 0x3255bfef, 0x95601890, 0xafd80709] }

theorem test_digest_ports :
    (digestPort finalSha1 0).toNat = 0xda39a3ee5e6b4b0d3255bfef95601890afd80709 ∧
    (digestHexPort finalSha1 7).toNat =
      0x64613339613365653565366234623064333235356266656639353630313839306166643830373039 := by decide +kernel

/-! ### The commands (§8.1, then §8.2, in the order of `starts`) -/

theorem test_nop_status :
    statusRow .nop = [some 0x04, some 0x05, some 0x06, some 0x0F, some 0x54, some 0x57, some 0x35, some 0x36] := by
  decide +kernel

theorem test_init_status : statusRow .init = List.replicate 8 (some 0x05) := by decide +kernel

/-- P2, line 2. -/
theorem test_init_loads_iv :
    digestAfter (exec .init State.reset) = some [0x67452301, 0xefcdab89, 0x98badcfe, 0x10325476, 0xc3d2e1f0] := by
  decide +kernel

theorem test_next_status :
    statusRow (.next abc1) =
      [some 0x54, some 0x06, some 0x06, some 0x57, some 0x54, some 0x57, some 0x35, some 0x36] := by decide +kernel

/-- §7.4: a block of 64 bytes `00` from `IV`. -/
theorem test_next_zero_block :
    digestAfter (exec (.next (List.replicate 64 0)) (stateWith fSha1 .compressed false .none)) =
      some [0x92b404e5, 0x56588ced, 0x6c1acd4e, 0xbf053f68, 0x09f73a93] := by decide +kernel

theorem test_nextl_status :
    statusRow (.nextl abc1) =
      [some 0x54, some 0x0F, some 0x0F, some 0x57, some 0x54, some 0x57, some 0x35, some 0x36] := by decide +kernel

/-- P3, line 3: "abc" on `sha512_core`. -/
theorem test_nextl_abc_sha512 :
    digestAfter (exec (.nextl abc512) (stateWith fSha512 .pending false .none)) =
      some [0xddaf35a193617aba, 0xcc417349ae204131, 0x12e6fa4e89a97ea2, 0x0a9eeee64b55d39a,
        0x2192992a274fc1a8, 0x36ba3c23a3feebbd, 0x454d4423643ce80e, 0x2a9ac94fa54ca49f] := by decide +kernel

/-- The status after a reserved code, §8.1 then §8.2. -/
def reservedRow : List (Option Nat) :=
  [some 0x34, some 0x35, some 0x36, some 0x37, some 0x54, some 0x57, some 0x35, some 0x36]

theorem test_reserved011_status : statusRow .reserved011 = reservedRow := by decide +kernel

theorem test_reserved100_status : statusRow .reserved100 = reservedRow := by decide +kernel

theorem test_reserved101_status : statusRow .reserved101 = reservedRow := by decide +kernel

theorem test_reserved111_status : statusRow .reserved111 = reservedRow := by decide +kernel

/-! ### Steps and whole digests -/

/-- P2 and P5: from reset, `INIT` presented as the table numbers it starts an invocation, and `NEXT` raises `PHASE`. -/
theorem test_step_from_reset :
    statusAfter (.next State.reset) = some 0x04 ∧ statusAfter (step State.reset) = some 0x04 ∧
    statusAfter (step (State.reset.withFetchWord 8 1)) = some 0x05 ∧
    statusAfter (step (State.reset.withFetchWord 8 2)) = some 0x54 ∧
    statusAfter (step (State.reset.withFetchWord 8 7)) = some 0x34 := by decide +kernel

/-- R210: the RESET event, from a state with a fault latched. -/
theorem test_reset_event :
    statusAfter (step ⟨mini, coreWith mini .final true .phase, [.reset], 0⟩) = some 0x04 := by decide +kernel

/-- §1.1 S1: the digest of the empty message. -/
theorem test_digest_of_empty_message :
    digestFn fSha1 [] = ['d', 'a', '3', '9', 'a', '3', 'e', 'e', '5', 'e', '6', 'b', '4', 'b', '0', 'd', '3', '2', '5',
      '5', 'b', 'f', 'e', 'f', '9', '5', '6', '0', '1', '8', '9', '0', 'a', 'f', 'd', '8', '0', '7', '0', '9'] := by
  decide +kernel

/-- §9, P4: two blocks. -/
def message56 : List Byte :=
  be 56 0x6162636462636465636465666465666765666768666768696768696a68696a6b696a6b6c6a6b6c6d6b6c6d6e6c6d6e6f6d6e6f706e6f7071

theorem test_digest_of_two_blocks :
    numerals (chain fSha1 (ivFile fSha1) (padBlocks rawSha1 message56)) =
      [0x84983e44, 0x1c3bd26e, 0xbaae4aa1, 0xf95129e5, 0xe54670f1] := by decide +kernel

/-! ### Witnesses: an input that meets the hypotheses of each statement -/

def unfaulted (PH : Phase) : State := stateWith mini PH false .none

theorem test_witness_DecodeOfEncode :
    [Instr.nop, .init, .next abc1, .nextl abc1, .reserved011, .reserved100, .reserved101, .reserved111].all
      (Instr.wellFormed 64) = true ∧ Instr.wellFormed 0 (.next []) = true := by decide +kernel

theorem test_witness_BlockWordIsFieldSlice : 0 < fSha1.cc ∧ 15 < fSha1.cc ∧ 15 < fSha512.cc := by decide

theorem test_witness_AssemblerRoundTrip :
    0 < 1 ∧ Instr.wellFormed 1 (.next [0x61]) = true ∧
    Line.text (.command (.next [0x61])) = some ['N', 'E', 'X', 'T', ' ', '6', '1'] ∧
    Line.text .reset = some ['R', 'E', 'S', 'E', 'T'] ∧ Line.text (.command .init) = some ['I', 'N', 'I', 'T'] := by
  decide +kernel

/-- The whole block, its last word, and no byte at all. -/
theorem test_witness_MemReadIsBigEndianSum :
    0 + 64 ≤ abc1.length ∧ 60 + 4 ≤ abc1.length ∧ 64 + 0 ≤ abc1.length ∧ memRead abc1 60 4 = 0x18 := by decide +kernel

theorem test_witness_MemReadOfMemWrite :
    60 + 4 ≤ abc1.length ∧ 0xffffffff < 256 ^ 4 ∧ (59 < 60 ∨ 60 + 4 ≤ 59) ∧ (64 < 60 ∨ 60 + 4 ≤ 64) := by
  decide +kernel

theorem test_witness_RotationsMoveEveryBit : (0 < 1 ∧ 1 < 32) ∧ (0 < 63 ∧ 63 < 64) ∧ 31 < 32 ∧ 0 < 32 := by decide

/-- Boundary bits of the bit-by-bit statements: LogicBitByBit, SigmaFunctionsBitByBit, SelectParityMajorityBitByBit. -/
theorem test_witness_bit_numbers : 0 < 32 ∧ 31 < 32 ∧ 0 < 64 ∧ 63 < 64 := by decide

/-- The first and the last word of each clause, in both families. -/
theorem test_witness_ScheduleSatisfiesRecurrence :
    (0 < fSha1.cc ∧ 15 < fSha1.cc) ∧ (fSha1.cc ≤ 16 ∧ 79 < fSha1.nr ∧ fSha1.fam = .sha1) ∧
    (fSha512.cc ≤ 16 ∧ 79 < fSha512.nr ∧ fSha512.fam = .sha2_64) := by decide

theorem test_witness_Sha1RoundShiftsLetters :
    fSha1.fam = .sha1 ∧ 0 < fSha1.nr ∧ 19 < fSha1.nr ∧ 20 < fSha1.nr ∧ 40 < fSha1.nr ∧ 79 < fSha1.nr := by decide

theorem test_witness_Sha2RoundShiftsLetters : fSha512.fam = .sha2_64 ∧ 0 < fSha512.nr ∧ 79 < fSha512.nr := by decide

/-- First and last register of SeedCopiesRunningDigest, FoldAddsWordByWord and LoadivLoadsTable. -/
theorem test_witness_register_numbers : 0 < fSha1.nh ∧ 4 < fSha1.nh ∧ 0 < fSha512.nh ∧ 7 < fSha512.nh := by decide

/-- Both phases, for NextCompressesBlock and NextlCompressesLastBlock. -/
theorem test_witness_NextCompressesBlock :
    (unfaulted .pending).core.ERR = false ∧ (unfaulted .pending).core.PH = .pending ∧
    (unfaulted .compressed).core.ERR = false ∧ (unfaulted .compressed).core.PH = .compressed ∧
    abc1.length = (unfaulted .pending).F.bs := by decide +kernel

/-- All four codes, from the state after reset. -/
theorem test_witness_ReservedCodesRaiseIllegalCommand : State.reset.core.ERR = false ∧
    ∀ i ∈ [Instr.reserved011, .reserved100, .reserved101, .reserved111],
      i = .reserved011 ∨ i = .reserved100 ∨ i = .reserved101 ∨ i = .reserved111 := by decide +kernel

theorem test_witness_BlockOutOfPhaseRaisesPhase :
    (unfaulted .idle).core.ERR = false ∧ (unfaulted .idle).core.PH = .idle ∧
    (unfaulted .final).core.ERR = false ∧ (unfaulted .final).core.PH = .final := by decide +kernel

theorem test_witness_LatchedFaultDiscardsCommands :
    (stateWith mini .idle true .phase).core.ERR = true ∧ Instr.next abc1 ≠ .init ∧ Instr.nop ≠ .init := by
  decide +kernel

theorem test_witness_WrongBlockWidthStops :
    (unfaulted .pending).core.ERR = false ∧ (unfaulted .pending).core.PH = .pending ∧
    [0x61#8].length ≠ (unfaulted .pending).F.bs := by decide +kernel

/-- A `NEXT` that is taken, and one that is not. -/
theorem test_witness_PhaseTransitionTable :
    (∃ t, exec (.next abc1) (unfaulted .pending) = .next t) ∧ (∃ t, exec (.next abc1) (unfaulted .final) = .next t) ∧
    (∃ t, exec .init (unfaulted .idle) = .next t) := ⟨⟨_, rfl⟩, ⟨_, rfl⟩, ⟨_, rfl⟩⟩

/-- `INIT` changes the zero digest. -/
theorem test_witness_OnlyLoadivAndFold_init :
    ∃ c', exec .init ⟨mini, CoreState.reset mini (fun _ _ => 0), [], 0⟩ = .next ⟨mini, c', [], 0⟩ ∧
      c'.H ≠ (CoreState.reset mini (fun _ _ => 0)).H := ⟨_, rfl, by decide +kernel⟩

/-- `NEXT` changes `IV`. -/
theorem test_witness_OnlyLoadivAndFold_next :
    ∃ c', exec (.next abc1) (unfaulted .pending) = .next ⟨mini, c', [], 0⟩ ∧ c'.H ≠ ivFile mini :=
  ⟨{ blockSeq abc1 (coreWith mini .pending false .none) with PH := .compressed }, rfl, by decide +kernel⟩

theorem test_witness_DescriptorNeverChanges : ∃ t, step State.reset = .next t := ⟨_, rfl⟩

theorem test_witness_FaultRegistersAgreeAfterEveryStep :
    FaultRegistersAgree State.reset ∧ FaultRegistersAgree (stateWith mini .final true .phase) ∧
    ∃ t, step (State.reset.withFetchWord 8 2) = .next t := ⟨by decide +kernel, by decide +kernel, ⟨_, rfl⟩⟩

/-- Leaving a fault by a reset and by `INIT`. -/
theorem test_witness_OnlyInitAndResetLeaveFault :
    (coreWith mini .final true .phase).ERR = true ∧
    (∃ t, step ⟨mini, coreWith mini .final true .phase, [.reset], 0⟩ = .next t ∧ t.core.ERR = false) ∧
    (∃ t, step ⟨mini, coreWith mini .final true .phase, [.command (cmdWord 0b001#3 0)], 0⟩ = .next t ∧
      t.core.ERR = false) := ⟨rfl, ⟨_, rfl, rfl⟩, ⟨_, rfl, rfl⟩⟩

/-- For DigestPortCarriesRunningDigest and DigestHexPortCarriesCodes. -/
theorem test_witness_digest_ports : digestValid finalSha1 = true ∧ 0 < fSha1.nh ∧ 4 < fSha1.nh ∧ 0 < fSha1.dlen ∧
    39 < fSha1.dlen := by decide +kernel

theorem test_witness_DigestStringIsPortNumeral : 0 < fSha1.dlen ∧ 39 < fSha1.dlen ∧ 127 < fSha512.dlen := by decide

/-- The last length with one final block and the first with two. -/
theorem test_witness_FinalBlocksOfPaddedMessage :
    55 % fSha1.bs + fSha1.lw + 1 ≤ fSha1.bs ∧ fSha1.bs < 56 % fSha1.bs + fSha1.lw + 1 ∧
    111 % fSha512.bs + fSha512.lw + 1 ≤ fSha512.bs ∧ fSha512.bs < 112 % fSha512.bs + fSha512.lw + 1 := by decide

/-- Any residue that satisfies the condition of ZeroCountIsLeastAndClosedForm. -/
theorem test_witness_ZeroCountIsLeastAndClosedForm :
    (0 + 1 + 55) % fSha1.bs = fSha1.bs - fSha1.lw ∧
    (56 + 1 + 63) % fSha1.bs = fSha1.bs - fSha1.lw := by decide

/-- For DigestExpansionComputesDigest and DigestOnCommandPort: the empty message and the longest one the field counts. -/
theorem test_witness_DigestExpansionComputesDigest :
    8 * ([] : List Byte).length < 2 ^ fSha1.lbits ∧ 8 * (2 ^ 61 - 1) < 2 ^ fSha1.lbits ∧
    8 * message56.length < 2 ^ fSha512.lbits := by decide +kernel

/-- `INIT` and `NEXTL` presented to an idle instance. -/
theorem test_witness_ValidDigestComesFromInvocation :
    (coreWith mini .idle false .none).PH = .idle ∧
    ∃ c', run 2 ⟨mini, coreWith mini .idle false .none,
      [.command (cmdWord 0b001#3 0), .command (cmdWord 0b110#3 0)], 0⟩ = .next ⟨mini, c', [], 0⟩ ∧
      digestValid c' = true := ⟨rfl, _, rfl, by decide +kernel⟩

theorem test_witness_ConstructionChecksFamilyFirst :
    (Selector.enumerant 2).family = none ∧ (Selector.enumerant 0).family = some .sha1 ∧
    (rawSha1.fam = .sha1 ∧ rawSha1.wellFormed = true) ∧ ¬(rawSha512.fam = .sha1 ∧ rawSha512.wellFormed = true) := by
  decide +kernel

theorem test_witness_WellFormedExactlyTheConditions : rawSha1.fam = .sha1 ∧ rawSha512.fam = .sha2_64 := by decide

theorem test_witness_InstancesDoNotInterfere :
    (∃ f, runInstances [0, 1, 0] [unfaulted .idle, State.reset] = .next f) ∧
    [unfaulted .idle, State.reset][1]? = some State.reset := ⟨⟨_, rfl⟩, rfl⟩

end Sys2Proof.Tests
end

section
/-! The bits of the logic operations of 40_word_arithmetic.md R95 to R97. `BitVec.getLsbD` reads 0 at and above the
width, so these hold for every bit number. -/

namespace Sys2Proof.Machine

variable {w : Nat}

@[simp] theorem getLsbD_andW (x y : BitVec w) (j : Nat) :
    (andW x y).getLsbD j = (x.getLsbD j && y.getLsbD j) := BitVec.getLsbD_and

@[simp] theorem getLsbD_orW (x y : BitVec w) (j : Nat) :
    (orW x y).getLsbD j = (x.getLsbD j || y.getLsbD j) := BitVec.getLsbD_or

@[simp] theorem getLsbD_xorW (x y : BitVec w) (j : Nat) :
    (xorW x y).getLsbD j = (x.getLsbD j ^^ y.getLsbD j) := BitVec.getLsbD_xor

/-- Settles O12: each operation acts on bit `j` by the Boolean connective of its name, and that connective is true
exactly under the condition R95 to R97 give. -/
theorem logicBitByBit : Obligations.LogicBitByBit := by
  intro w x y j _
  refine ⟨?and, ?or, ?xor⟩
  case and => rw [getLsbD_andW, Bool.and_eq_true]
  case or => rw [getLsbD_orW, Bool.or_eq_true]
  case xor => rw [getLsbD_xorW, Bool.xor_iff_ne]

end Sys2Proof.Machine
end

section
/-! One round on the named working variables (43_compression.md R135 to R148). `WF(F)` fixes the number of words of the
family, so every letter is a register of `V`. -/

namespace Sys2Proof.Machine

variable {w n : Nat}

/-- Band `b` is rounds `20*b` to `20*b + 19` (R137). -/
theorem band_eq_iff {t b : Nat} : band t = b ↔ 20 * b ≤ t ∧ t < 20 * b + 20 := by
  unfold band
  omega

/-- The function of round `t`, by its band (R139). The last clause has no upper end: `fBand` gives parity to every band
from 3 up. -/
theorem fBand_band (t : Nat) (b c d : BitVec w) :
    fBand (band t) b c d =
      if t < 20 then fCh b c d else if t < 40 then fPar b c d else if t < 60 then fMaj b c d else fPar b c d := by
  split_ifs with h20 h40 h60
  · rw [(band_eq_iff (b := 0)).mpr (by omega), fBand]
  · rw [(band_eq_iff (b := 1)).mpr (by omega), fBand]
  · rw [(band_eq_iff (b := 2)).mpr (by omega), fBand]
  · have hlast : 3 ≤ band t := by unfold band; omega
    obtain ⟨k, hk⟩ := Nat.exists_eq_add_of_le' hlast
    rw [hk]
    rfl

/-- `ROUND1` writes the five letters (R141). -/
theorem get_round1 (t : Nat) (Wt Kt : BitVec w) (V : RegFile w n) {i : Nat} (h : i < n) :
    RegFile.get (round1 t Wt Kt V) i =
      [addW (addW (addW (addW (rotlW (RegFile.get V 0) 5)
          (fBand (band t) (RegFile.get V 1) (RegFile.get V 2) (RegFile.get V 3))) (RegFile.get V 4)) Kt) Wt,
        RegFile.get V 0, rotlW (RegFile.get V 1) 30, RegFile.get V 2, RegFile.get V 3].getD i 0 :=
  RegFile.get_ofWords _ h

/-- `ROUND2` writes the eight letters (R148). -/
theorem get_round2 (Wt Kt : BitVec w) (V : RegFile w n) {i : Nat} (h : i < n) :
    RegFile.get (round2 Wt Kt V) i =
      let T1 := t1 (RegFile.get V 4) (RegFile.get V 5) (RegFile.get V 6) (RegFile.get V 7) Kt Wt
      [addW T1 (t2 (RegFile.get V 0) (RegFile.get V 1) (RegFile.get V 2)), RegFile.get V 0, RegFile.get V 1,
        RegFile.get V 2, addW (RegFile.get V 3) T1, RegFile.get V 4, RegFile.get V 5, RegFile.get V 6].getD i 0 :=
  RegFile.get_ofWords _ h

/-- The round of `SHA1`: `ROUND1` with the constant of the round's band (R135, R140). -/
theorem roundOp_sha1 {F : Descriptor} (h : F.fam = .sha1) (t : Nat) (Wt : BitVec F.w) (V : RegFile F.w F.nh) :
    roundOp F t Wt V = round1 t Wt (F.k (band t)) V := by
  simp only [roundOp, h, kIndex]

/-- The round of `SHA2_64`: `ROUND2` with the round's own constant (R135, R148). -/
theorem roundOp_sha2 {F : Descriptor} (h : F.fam = .sha2_64) (t : Nat) (Wt : BitVec F.w) (V : RegFile F.w F.nh) :
    roundOp F t Wt V = round2 Wt (F.k t) V := by
  simp only [roundOp, h, kIndex]

/-- Settles O18: the round is `ROUND1`, whose register 0 is `temp` with the band's function and constant and whose other
registers are the shifted letters. `fBand_band` holds of every round number, so `t < nr` is not needed. -/
theorem sha1RoundShiftsLetters : Obligations.Sha1RoundShiftsLetters := by
  intro F t Wt V hfam _
  obtain ⟨-, hnh, -⟩ := F.wf_sha1 hfam
  have hw : F.w = 32 := by simpa only [hfam] using F.w_eq
  have hletter (i : Nat) (hi : i < 5) := get_round1 t Wt (F.k (band t)) V (hnh ▸ hi)
  rw [roundOp_sha1 hfam, ← fBand_band]
  exact ⟨hw, hnh, hletter 0 (by decide), hletter 1 (by decide), hletter 2 (by decide), hletter 3 (by decide),
    hletter 4 (by decide)⟩

/-- Settles O19: the round is `ROUND2`, whose registers 0 and 4 hold the sums with `T1` and whose other registers are
the shifted letters. -/
theorem sha2RoundShiftsLetters : Obligations.Sha2RoundShiftsLetters := by
  intro F t Wt V hfam _
  obtain ⟨-, hnh, -⟩ := F.wf_sha2 hfam
  have hw : F.w = 64 := by simpa only [hfam] using F.w_eq
  have hletter (i : Nat) (hi : i < 8) := get_round2 Wt (F.k t) V (hnh ▸ hi)
  rw [roundOp_sha2 hfam]
  exact ⟨hw, hnh, hletter 0 (by decide), hletter 1 (by decide), hletter 2 (by decide), hletter 3 (by decide),
    hletter 4 (by decide), hletter 5 (by decide), hletter 6 (by decide), hletter 7 (by decide)⟩

end Sys2Proof.Machine
end

section
/-! The digest string of 44_serialization.md R160 to R163: how many characters it has and which. -/

namespace Sys2Proof.Machine

/-- Every character the serialization writes is one of the sixteen of R161: of a value from 16 up it is `0`. -/
theorem hexDigit_mem (v : Nat) :
    hexDigit v ∈ ['0', '1', '2', '3', '4', '5', '6', '7', '8', '9', 'a', 'b', 'c', 'd', 'e', 'f'] := by
  unfold hexDigit
  rcases Nat.lt_or_ge v 16 with h | h
  · rw [List.getD_eq_getElem _ _ h]
    exact List.getElem_mem h
  · rw [List.getD_eq_default _ _ h]
    exact List.mem_cons_self

/-- A word gives two characters a byte (R161). -/
@[simp] theorem length_hexw (ws : Nat) {w : Nat} (x : BitVec w) : (hexw ws x).length = 2 * ws := by
  simp [hexw]

/-- A word's characters are hexadecimal digits (R161). -/
theorem exists_hexDigit_of_mem_hexw {ws w : Nat} {x : BitVec w} {c : Char} (h : c ∈ hexw ws x) :
    ∃ v, hexDigit v = c := by
  obtain ⟨j, -, hj⟩ := List.mem_map.mp h
  exact ⟨_, hj⟩

/-- The string has as many characters as its `nh` words of `2*ws` characters (R162). -/
@[simp] theorem length_hexstr (F : Descriptor) (H : RegFile F.w F.nh) : (hexstr F H).length = F.dlen := by
  calc (hexstr F H).length
      = (H.toList.map fun x => (hexw F.ws x).length).sum := List.length_flatMap
    _ = F.nh * (2 * F.ws) := by simp
    _ = F.dlen := Nat.mul_comm _ _

/-- The string's characters are hexadecimal digits (R162). -/
theorem exists_hexDigit_of_mem_hexstr {F : Descriptor} {H : RegFile F.w F.nh} {c : Char} (h : c ∈ hexstr F H) :
    ∃ v, hexDigit v = c := by
  obtain ⟨x, -, hx⟩ := List.mem_flatMap.mp h
  exact exists_hexDigit_of_mem_hexw hx

/-- Settles O47: `nh` words of `2*ws` characters each are `dlen` characters, and each is the digit of some value. -/
theorem digestStringLength : Obligations.DigestStringLength := by
  intro F H
  refine ⟨length_hexstr F H, fun c hc => ?_⟩
  obtain ⟨v, rfl⟩ := exists_hexDigit_of_mem_hexstr hc
  exact hexDigit_mem v

end Sys2Proof.Machine
end

section
/-! The checks of a step in the order of 45_commands.md R170. The meanings make them command by command: `NEXT`, `NEXTL`
and the reserved codes each begin with the latched fault, `NEXT` and `NEXTL` go on with the phase. Here each meaning has
its checks as one equation, and the shared ones then come to stand before the tests that separate the commands. -/

namespace Sys2Proof.Machine

/-- A decoded block has the width the port presents (30_encoding.md R72). -/
theorem length_blockBytes {bs : Nat} (block : BitVec (8 * bs)) : (blockBytes block).length = bs := by
  simp [blockBytes]

/-- The phases of check 5, `IDLE` and `FINAL`, are those in which no block is accepted (R170). -/
theorem takesBlock_eq_false_iff (PH : Phase) : PH.takesBlock = false ↔ PH = .idle ∨ PH = .final := by
  cases PH <;> decide

/-- Checks 3 and 4 of R170. -/
theorem illegalCommand_eq (s : State) :
    illegalCommand s = if s.core.ERR = true then .next s else .next (raiseFault .illegalCmd s) := rfl

/-- Checks 3 and 5 of R170, and the command's effect behind them, for a block the port can present. -/
theorem compressThen_eq {block : List Byte} {s : State} (hblock : block.length = s.F.bs) (after : Phase) :
    compressThen after block s =
      if s.core.ERR = true then .next s
      else if s.core.PH = .idle ∨ s.core.PH = .final then .next (raiseFault .phase s)
      else .next { s with core := { blockSeq block s.core with PH := after } } := by
  rcases compressThen_cases (Eq.refl (compressThen after block s)) with
    ⟨herr, hout⟩ | ⟨herr, hphase, hout⟩ | ⟨herr, hphase, _, hout⟩ | ⟨_, _, hwidth, _⟩
  · rw [hout, if_pos herr]
  · rw [hout, if_neg (by simp [herr]), if_pos ((takesBlock_eq_false_iff _).mp hphase)]
  · rw [hout, if_neg (by simp [herr]), if_neg (by simp [← takesBlock_eq_false_iff, hphase])]
  · exact absurd hblock hwidth

/-- The eight operation codes (30_encoding.md R73, R74), grouped as the checks of R170 group them. -/
theorem opcode_cases (op : BitVec 3) :
    op = 0b000#3 ∨ op = 0b001#3 ∨ (op = 0b011#3 ∨ op = 0b100#3 ∨ op = 0b101#3 ∨ op = 0b111#3) ∨
      op = 0b010#3 ∨ op = 0b110#3 := by
  decide +revert

/-- Which of the five meanings an operation code selects (30_encoding.md R73, R74). -/
theorem exec_decodeOp (op : BitVec 3) (block : List Byte) (s : State) :
    exec (decodeOp op block) s =
      if op = 0b000#3 then execNop s
      else if op = 0b001#3 then execInit s
      else if op = 0b011#3 ∨ op = 0b100#3 ∨ op = 0b101#3 ∨ op = 0b111#3 then illegalCommand s
      else if op = 0b010#3 then compressThen .compressed block s
      else compressThen .final block s := by
  rcases opcode_cases op with rfl | rfl | (rfl | rfl | rfl | rfl) | rfl | rfl <;> rfl

/-- Settles O35: the code selects the meaning and each meaning has its checks as an equation. What separates the two
chains is the place of the latched fault and of the phase; with both decided they are the same. -/
theorem dispatchChecksInFixedOrder : Obligations.DispatchChecksInFixedOrder := by
  intro s cmd
  have hblock : (blockBytes (cmdBlock cmd)).length = s.F.bs := length_blockBytes _
  rw [decode, exec_decodeOp, illegalCommand_eq, compressThen_eq hblock, compressThen_eq hblock]
  by_cases herr : s.core.ERR = true
  · simp only [if_pos herr, ite_self]
    rfl
  by_cases hphase : s.core.PH = .idle ∨ s.core.PH = .final
  · simp only [if_neg herr, if_pos hphase, ite_self]
    rfl
  · simp only [if_neg herr, if_neg hphase]
    rfl

end Sys2Proof.Machine
end

section
/-! Positional numerals, the most significant digit first. The model reads bytes with base 256 (20_memory.md R52), words
with base `2^w` (10_state.md R29) and nibbles with base 16 (44_serialization.md R161); one rule for the digits serves all
three. -/

namespace Sys2Proof

/-- The number whose digits in base `b` are `digits`, the most significant first. -/
def numeral (b : Nat) (digits : List Nat) : Nat := digits.foldl (fun acc d => acc * b + d) 0

@[simp] theorem numeral_nil (b : Nat) : numeral b [] = 0 := rfl

@[simp] theorem numeral_concat (b : Nat) (ds : List Nat) (d : Nat) :
    numeral b (ds ++ [d]) = numeral b ds * b + d := by
  simp [numeral]

theorem numeral_lt {b : Nat} {ds : List Nat} (h : ∀ d ∈ ds, d < b) : numeral b ds < b ^ ds.length := by
  induction ds using List.reverseRecOn with
  | nil => simp
  | append_singleton ds d ih =>
    have hd : d < b := h d (by simp)
    have hds : numeral b ds + 1 ≤ b ^ ds.length := ih fun e he => h e (by simp [he])
    calc numeral b (ds ++ [d])
        < (numeral b ds + 1) * b := by rw [numeral_concat, Nat.succ_mul]; omega
      _ ≤ b ^ ds.length * b := Nat.mul_le_mul_right b hds
      _ = b ^ (ds ++ [d]).length := by simp [Nat.pow_succ]

/-- The digits of a numeral are what it is made of. -/
theorem numeral_digit {b : Nat} {ds : List Nat} (h : ∀ d ∈ ds, d < b) {k : Nat} (hk : k < ds.length) :
    numeral b ds / b ^ (ds.length - 1 - k) % b = ds[k] := by
  induction ds using List.reverseRecOn with
  | nil => simp at hk
  | append_singleton ds d ih =>
    have hd : d < b := h d (by simp)
    have hlow : (numeral b ds * b + d) / b = numeral b ds := by
      rw [Nat.mul_comm, Nat.mul_add_div (by omega), Nat.div_eq_of_lt hd, Nat.add_zero]
    rw [numeral_concat]
    by_cases hlast : k = ds.length
    · subst hlast
      simp [Nat.mod_eq_of_lt hd]
    · have hk' : k < ds.length := by simp at hk; omega
      have hexp : (ds ++ [d]).length - 1 - k = 1 + (ds.length - 1 - k) := by simp; omega
      rw [hexp, Nat.pow_add, ← Nat.div_div_eq_div_mul, Nat.pow_one, hlow, ih (fun e he => h e (by simp [he])) hk',
        List.getElem_append_left hk']

/-- A byte is a digit in base 256. -/
theorem toNat_lt_of_mem_bytes {bytes : List Byte} : ∀ d ∈ bytes.map BitVec.toNat, d < 256 := by
  intro d hd
  obtain ⟨b, -, rfl⟩ := List.mem_map.mp hd
  exact b.isLt

/-! ### Big-endian bytes (20_memory.md R52, 41_padding.md R111) -/

theorem beNat_eq_numeral (bytes : List Byte) : beNat bytes = numeral 256 (bytes.map BitVec.toNat) := by
  simp [beNat, numeral, List.foldl_map]

@[simp] theorem beNat_nil : beNat [] = 0 := rfl

@[simp] theorem beNat_concat (bytes : List Byte) (b : Byte) :
    beNat (bytes ++ [b]) = beNat bytes * 256 + b.toNat := by
  simp [beNat]

theorem beNat_lt (bytes : List Byte) : beNat bytes < 256 ^ bytes.length := by
  simpa [beNat_eq_numeral] using numeral_lt (toNat_lt_of_mem_bytes (bytes := bytes))

theorem beNat_digit {bytes : List Byte} {k : Nat} (hk : k < bytes.length) :
    beNat bytes / 256 ^ (bytes.length - 1 - k) % 256 = bytes[k].toNat := by
  have hk' : k < (bytes.map BitVec.toNat).length := by simpa using hk
  simpa [beNat_eq_numeral] using numeral_digit toNat_lt_of_mem_bytes hk'

@[simp] theorem length_be (n v : Nat) : (be n v).length = n := by simp [be]

@[simp] theorem getElem_be (n v : Nat) {k : Nat} (hk : k < (be n v).length) :
    (be n v)[k] = BitVec.ofNat 8 (v / 256 ^ (n - 1 - k)) := by
  simp [be]

/-- Part of a big-endian numeral is the numeral of part of the number. -/
theorem take_drop_be {n a m : Nat} (h : a + m ≤ n) (v : Nat) :
    ((be n v).drop a).take m = be m (v / 256 ^ (n - a - m)) := by
  refine List.ext_getElem (by simp; omega) fun k hk _ => ?_
  have hkm : k < m := by simp at hk; omega
  have hexp : n - 1 - (a + k) = n - a - m + (m - 1 - k) := by omega
  simp [hexp, Nat.pow_add, Nat.div_div_eq_div_mul]

/-- The last byte of a big-endian numeral. -/
theorem be_succ (n v : Nat) : be (n + 1) v = be n (v / 256) ++ [BitVec.ofNat 8 v] := by
  have hinit : (be (n + 1) v).take n = be n (v / 256) := by
    simpa using take_drop_be (n := n + 1) (a := 0) (m := n) (by omega) v
  have hlast : (be (n + 1) v)[n]'(by simp) = BitVec.ofNat 8 v := by simp
  rw [← hinit, ← hlast, List.take_append_getElem, List.take_of_length_le (by simp)]

theorem beNat_be (n v : Nat) : beNat (be n v) = v % 256 ^ n := by
  induction n generalizing v with
  | zero => simp [be, Nat.mod_one]
  | succ n ih => simp [be_succ, ih, Nat.pow_succ', Nat.mod_mul]; omega

theorem be_beNat (bytes : List Byte) : be bytes.length (beNat bytes) = bytes := by
  refine List.ext_getElem (by simp) fun k _ hk => ?_
  apply BitVec.eq_of_toNat_eq
  simpa using beNat_digit hk

theorem be_mod (n v : Nat) : be n (v % 256 ^ n) = be n v := by
  simpa [beNat_be] using be_beNat (be n v)

theorem beNat_eq_sum (bytes : List Byte) :
    beNat bytes = ∑ k ∈ Finset.range bytes.length, (bytes.getD k 0).toNat * 256 ^ (bytes.length - 1 - k) := by
  induction bytes using List.reverseRecOn with
  | nil => rfl
  | append_singleton bytes b ih =>
    rw [beNat_concat, ih, List.length_append, List.length_singleton, Finset.sum_range_succ, Finset.sum_mul]
    congr 1
    · refine Finset.sum_congr rfl fun k hk => ?_
      have hk : k < bytes.length := Finset.mem_range.mp hk
      have hexp : bytes.length + 1 - 1 - k = bytes.length - 1 - k + 1 := by omega
      rw [List.getD_append _ _ _ _ hk, hexp, Nat.pow_succ, Nat.mul_assoc]
    · simp

end Sys2Proof
end

section
/-! The command word and its block field (30_encoding.md R71 to R76): the two fields of a word, the block as a big-endian
numeral, and the two round trips of the decoder. -/

namespace Sys2Proof

theorem two_pow_eight_mul (n : Nat) : 2 ^ (8 * n) = 256 ^ n := Nat.pow_mul 2 8 n

/-! ### The two fields (R71) -/

theorem cmdBlock_cmdWord {bs : Nat} (op : BitVec 3) (block : BitVec (8 * bs)) : cmdBlock (cmdWord op block) = block := by
  unfold cmdBlock cmdWord
  ext i hi
  simp [BitVec.getLsbD_append, hi]

theorem cmdWord_cmdOp_cmdBlock {bs : Nat} (cmd : BitVec (cmdWidth bs)) : cmdWord (cmdOp cmd) (cmdBlock cmd) = cmd := by
  unfold cmdOp cmdBlock cmdWord
  ext i hi
  simp

/-! ### The block field (R72, 20_memory.md R51) -/

/-- The bytes of the block field are its big-endian numeral. -/
theorem blockBytes_eq_be {bs : Nat} (block : BitVec (8 * bs)) : blockBytes block = be bs block.toNat := by
  refine List.ext_getElem (by simp [blockBytes]) fun k _ _ => ?_
  have hexp : bs - k - 1 = bs - 1 - k := by omega
  apply BitVec.eq_of_toNat_eq
  simp [blockBytes, blockByte, hexp, Nat.shiftRight_eq_div_pow, two_pow_eight_mul]

theorem blockBits_blockBytes {bs : Nat} (block : BitVec (8 * bs)) : blockBits bs (blockBytes block) = block := by
  apply BitVec.eq_of_toNat_eq
  have hlt : block.toNat < 256 ^ bs := two_pow_eight_mul bs ▸ block.isLt
  simp [blockBits, blockBytes_eq_be, beNat_be, Nat.mod_eq_of_lt, hlt]

theorem blockBytes_blockBits {bs : Nat} {bytes : List Byte} (h : bytes.length = bs) :
    blockBytes (blockBits bs bytes) = bytes := by
  subst h
  rw [blockBytes_eq_be, blockBits, BitVec.toNat_ofNat, two_pow_eight_mul, be_mod, be_beNat]

@[simp] theorem blockBits_nil (bs : Nat) : blockBits bs [] = 0 := rfl

/-! ### Decoding and encoding (R73, R74, R76) -/

/-- The decoder on a word given by its two fields. -/
theorem decode_cmdWord {bs : Nat} (op : BitVec 3) (block : BitVec (8 * bs)) :
    decode bs (cmdWord op block) = decodeOp op (blockBytes block) := by
  rw [decode, Laws.cmdOp_cmdWord, cmdBlock_cmdWord]

/-- The opcode map and the code of each command are inverse; only format `B` reads the block. -/
theorem decodeOp_opcode {i : Instr} {block : List Byte} (h : ∀ b, i = .next b ∨ i = .nextl b → block = b) :
    decodeOp i.opcode block = i := by
  cases i with
  | next b => rw [h b (.inl rfl)]; rfl
  | nextl b => rw [h b (.inr rfl)]; rfl
  | nop | init | reserved011 | reserved100 | reserved101 | reserved111 => rfl

/-- Settles O1: the fields of the encoding are the command's code and its block, and the block field gives back the
bytes of a block of the port's width. -/
theorem decodeOfEncode : Obligations.DecodeOfEncode := by
  intro bs i hwf
  rw [encode, decode_cmdWord]
  apply decodeOp_opcode
  rintro b (rfl | rfl) <;> exact blockBytes_blockBits (by simpa [Instr.wellFormed, Instr.operand] using hwf)

/-- The code of a decoded command is the code that was decoded. -/
theorem opcode_decodeOp (op : BitVec 3) (block : List Byte) : (decodeOp op block).opcode = op := by
  rcases Machine.opcode_cases op with rfl | rfl | (rfl | rfl | rfl | rfl) | rfl | rfl <;> rfl

/-- The operand of a decoded command: the block in format `B`, none otherwise. -/
theorem operand_decodeOp (op : BitVec 3) (block : List Byte) :
    (decodeOp op block).operand = if op = 0b010#3 ∨ op = 0b110#3 then block else [] := by
  rcases Machine.opcode_cases op with rfl | rfl | (rfl | rfl | rfl | rfl) | rfl | rfl <;> rfl

/-- Settles O2: encoding writes the code back, and in format `B` the block field too. -/
theorem encodeOfDecode : Obligations.EncodeOfDecode := by
  intro bs cmd
  rw [encode, decode, opcode_decodeOp, operand_decodeOp]
  split_ifs
  · rw [blockBits_blockBytes, cmdWord_cmdOp_cmdBlock]
  · rw [blockBits_nil]

/-- A decoded command is one the port can present when the block has the port's width. -/
theorem wellFormed_decodeOp {bs : Nat} (op : BitVec 3) {block : List Byte} (h : block.length = bs) :
    (decodeOp op block).wellFormed bs = true := by
  rcases Machine.opcode_cases op with rfl | rfl | (rfl | rfl | rfl | rfl) | rfl | rfl <;>
    simp [decodeOp, Instr.wellFormed, h]

/-- Settles O3: a decoded block has `bs` bytes. -/
theorem decodedCommandsAreWellFormed : Obligations.DecodedCommandsAreWellFormed :=
  fun _ cmd => wellFormed_decodeOp (cmdOp cmd) (Machine.length_blockBytes _)

/-- Settles O4: the two fields of the word are read separately, and the code alone selects the command. -/
theorem opcodeMap : Obligations.OpcodeMap := by
  intro bs block
  simp only [decode_cmdWord]
  exact ⟨rfl, rfl, rfl, rfl, rfl, rfl, rfl, rfl⟩

end Sys2Proof
end

section
/-! Big-endian access to the block operand (20_memory.md R52, 00_scope.md R14) and the two numerals the rules read or
write there: a schedule word (30_encoding.md R72) and the length field (41_padding.md R111). -/

namespace Sys2Proof.Machine

/-- Settles O5: a word is a part of the block's big-endian numeral, and so a slice of the block field. -/
theorem blockWordIsFieldSlice : Obligations.BlockWordIsFieldSlice := by
  intro F block k hk
  have htile : F.bs = F.ws * k + F.ws + F.ws * (F.cc - k - 1) := by
    rw [F.bs_eq, ← Nat.mul_succ, ← Nat.mul_add]
    congr 1
    omega
  have hexp : F.bs - F.ws * k - F.ws = F.ws * (F.cc - k - 1) := by omega
  have hstart : F.w * (F.cc - k - 1) = 8 * (F.ws * (F.cc - k - 1)) := Nat.mul_assoc _ _ _
  apply BitVec.eq_of_toNat_eq
  rw [blockWord, memRead, blockBytes_eq_be, take_drop_be (by omega), beNat_be, BitVec.toNat_ofNat, hexp,
    BitVec.extractLsb'_toNat, Nat.shiftRight_eq_div_pow, hstart, two_pow_eight_mul, RawDescriptor.w, two_pow_eight_mul,
    Nat.mod_mod]

/-- Settles O7: the bytes that are read are a numeral in base 256. -/
theorem memReadIsBigEndianSum : Obligations.MemReadIsBigEndianSum := by
  intro block addr n hfit
  have hlen : ((block.drop addr).take n).length = n := by simp; omega
  rw [memRead, beNat_eq_sum, hlen]
  refine Finset.sum_congr rfl fun k hk => ?_
  have hk : k < n := Finset.mem_range.mp hk
  simp [List.getD, hk]

/-- The bytes that are written are the numeral of the value. -/
theorem take_drop_memWrite {block : List Byte} {addr n : Nat} (h : addr + n ≤ block.length) (v : Nat) :
    ((memWrite block addr n v).drop addr).take n = be n v := by
  have haddr : (block.take addr).length = addr := List.length_take_of_le (by omega)
  rw [memWrite, List.append_assoc, List.drop_left' haddr, List.take_left' (length_be n v)]

theorem length_memWrite {block : List Byte} {addr n : Nat} (h : addr + n ≤ block.length) (v : Nat) :
    (memWrite block addr n v).length = block.length := by
  simp [memWrite]; omega

/-- Bytes outside the range written keep their value. -/
theorem getD_memWrite_of_outside {block : List Byte} {addr n a : Nat} (h : addr + n ≤ block.length) (v : Nat)
    (ha : a < addr ∨ addr + n ≤ a) : (memWrite block addr n v).getD a 0 = block.getD a 0 := by
  have haddr : (block.take addr).length = addr := List.length_take_of_le (by omega)
  rcases ha with ha | ha
  · rw [memWrite, List.append_assoc, List.getD_append _ _ _ _ (by omega)]
    simp [List.getD, ha]
  · have hpre : (block.take addr ++ be n v).length = addr + n := by simp [haddr]
    rw [memWrite, List.getD_append_right _ _ _ _ (by omega), hpre]
    simp [List.getD, Nat.add_sub_cancel' ha]

/-- Settles O8: the value's bytes are written and read back; the rest of the block is before and after them. -/
theorem memReadOfMemWrite : Obligations.MemReadOfMemWrite := by
  intro block addr n v hfit hv
  refine ⟨?_, length_memWrite hfit v, fun _ => getD_memWrite_of_outside hfit v⟩
  rw [memRead, take_drop_memWrite hfit, beNat_be, Nat.mod_eq_of_lt hv]

@[simp] theorem length_lengthField (F : RawDescriptor) (L : Nat) : (lengthField F L).length = F.lw := length_be _ _

/-- Settles O54: the field is a big-endian numeral of `lw` bytes, whose value is already below `2^lbits`. -/
theorem lengthFieldHoldsBitLength : Obligations.LengthFieldHoldsBitLength := by
  intro F L
  refine ⟨length_lengthField _ L, ?_⟩
  rw [lengthField, beNat_be, RawDescriptor.lbits, two_pow_eight_mul, Nat.mod_mod]

end Sys2Proof.Machine
end

section
/-! The word operations of 40_word_arithmetic.md R91 to R98 as integers and bit by bit, and the functions built from them:
the sigmas (42_schedule.md R124, R125, 43_compression.md R144, R145), select, parity and majority (R138, R142, R143). -/

namespace Sys2Proof.Machine

variable {w : Nat}

/-- Settles O9: the ring laws of words. -/
theorem addWrapsModuloWidth : Obligations.AddWrapsModuloWidth :=
  fun _ x y z => ⟨BitVec.toNat_add x y, BitVec.add_comm x y, BitVec.add_assoc x y z, BitVec.add_zero x⟩

/-- Settles O11: a shift divides by a power of two, and the complement subtracts from the word of all ones. -/
theorem shiftAndComplementAsIntegers : Obligations.ShiftAndComplementAsIntegers :=
  fun _ x n => ⟨(BitVec.toNat_ushiftRight x n).trans (Nat.shiftRight_eq_div_pow _ _), BitVec.toNat_not⟩

/-! ### Rotations (R92, R93) -/

/-- A rotation by `n` splits the word into its high `n` bits and the rest, and puts them together the other way round:
the two parts share no bit, so joining them is adding them. -/
theorem or_eq_add_of_split {v a b : Nat} (hv : v < 2 ^ (a + b)) :
    v * 2 ^ b % 2 ^ (a + b) ||| v / 2 ^ a = v * 2 ^ b % 2 ^ (a + b) + v / 2 ^ a := by
  have hhigh : v * 2 ^ b % 2 ^ (a + b) = 2 ^ b * (v % 2 ^ a) := by
    rw [Nat.add_comm a b, Nat.pow_add, Nat.mul_comm v, Nat.mul_mod_mul_left]
  have hlow : v / 2 ^ a < 2 ^ b := Nat.div_lt_of_lt_mul (Nat.pow_add 2 a b ▸ hv)
  rw [hhigh, Nat.two_pow_add_eq_or_of_lt hlow]

theorem toNat_rotlW (x : BitVec w) {n : Nat} (h : n < w) :
    (rotlW x n).toNat = x.toNat * 2 ^ n % 2 ^ w + x.toNat / 2 ^ (w - n) := by
  have hw : w - n + n = w := Nat.sub_add_cancel h.le
  have hsplit := or_eq_add_of_split (v := x.toNat) (a := w - n) (b := n) (hw.symm ▸ x.isLt)
  rw [hw] at hsplit
  rw [rotlW, BitVec.toNat_rotateLeft, Nat.mod_eq_of_lt h, Nat.shiftLeft_eq, Nat.shiftRight_eq_div_pow, hsplit]

theorem toNat_rotrW (x : BitVec w) {n : Nat} (h : n < w) :
    (rotrW x n).toNat = x.toNat / 2 ^ n + x.toNat % 2 ^ n * 2 ^ (w - n) := by
  have hw : n + (w - n) = w := Nat.add_sub_cancel' h.le
  have hsplit := or_eq_add_of_split (v := x.toNat) (a := n) (b := w - n) (hw.symm ▸ x.isLt)
  have hhigh : x.toNat * 2 ^ (w - n) % 2 ^ w = x.toNat % 2 ^ n * 2 ^ (w - n) := by
    rw [← Nat.mul_mod_mul_right, ← Nat.pow_add, hw]
  rw [hw] at hsplit
  rw [rotrW, BitVec.toNat_rotateRight, Nat.mod_eq_of_lt h, Nat.shiftLeft_eq, Nat.shiftRight_eq_div_pow, Nat.lor_comm,
    hsplit, hhigh, Nat.add_comm]

theorem getLsbD_rotlW (x : BitVec w) {n j : Nat} (hn : n < w) (hj : j < w) :
    (rotlW x n).getLsbD j = x.getLsbD ((j + w - n) % w) := by
  rw [rotlW, BitVec.getLsbD_rotateLeft, Nat.mod_eq_of_lt hn]
  by_cases h : j < n
  · have hidx : (j + w - n) % w = w - n + j := by rw [Nat.mod_eq_of_lt] <;> omega
    simp [h, hidx]
  · have hidx : (j + w - n) % w = j - n := by rw [Nat.mod_eq_sub_mod, Nat.mod_eq_of_lt] <;> omega
    simp [h, hj, hidx]

theorem getLsbD_rotrW (x : BitVec w) {n j : Nat} (hn : n < w) (hj : j < w) :
    (rotrW x n).getLsbD j = x.getLsbD ((j + n) % w) := by
  rw [rotrW, BitVec.getLsbD_rotateRight, Nat.mod_eq_of_lt hn]
  by_cases h : j < w - n
  · have hidx : (j + n) % w = n + j := by rw [Nat.mod_eq_of_lt] <;> omega
    simp [h, hidx]
  · have hidx : (j + n) % w = j - (w - n) := by rw [Nat.mod_eq_sub_mod, Nat.mod_eq_of_lt] <;> omega
    simp [h, hj, hidx]

/-- The relation of the two rotations (derived in R93). -/
theorem rotlW_eq_rotrW (x : BitVec w) {n : Nat} (h0 : 0 < n) (hn : n < w) : rotlW x n = rotrW x (w - n) := by
  apply BitVec.eq_of_getLsbD_eq
  intro j hj
  rw [getLsbD_rotlW x hn hj, getLsbD_rotrW x (by omega) hj, Nat.add_sub_assoc hn.le]

/-- Settles O10: both rotations as sums of their two parts, then their bits, and the relation from the bits. -/
theorem rotationsMoveEveryBit : Obligations.RotationsMoveEveryBit :=
  fun _ x _ h0 hn => ⟨toNat_rotlW x hn, toNat_rotrW x hn, fun _ => getLsbD_rotlW x hn, fun _ => getLsbD_rotrW x hn,
    rotlW_eq_rotrW x h0 hn⟩

/-! ### The sigmas and the round functions, bit by bit -/

/-- Bit `j` after a shift: 0 comes from above the word. -/
theorem getLsbD_shrW (x : BitVec w) (n j : Nat) : (shrW x n).getLsbD j = (decide (j + n < w) && x.getLsbD (j + n)) := by
  by_cases h : j + n < w
  · simp [shrW, h, Nat.add_comm n j]
  · simp [shrW, h, Nat.add_comm n j, BitVec.getLsbD_of_ge x _ (Nat.not_lt.mp h)]

/-- Settles O13: each sigma is the exclusive or of three rotations or shifts, and the bits of those are known. -/
theorem sigmaFunctionsBitByBit : Obligations.SigmaFunctionsBitByBit := by
  intro x j hj
  have hrot (n : Nat) (hn : n < 64) := getLsbD_rotrW x hn hj
  refine ⟨?_, ?_, ?_, ?_⟩
  · simp only [smallSigma0, getLsbD_xorW, getLsbD_shrW, hrot 1 (by decide), hrot 8 (by decide)]
  · simp only [smallSigma1, getLsbD_xorW, getLsbD_shrW, hrot 19 (by decide), hrot 61 (by decide)]
  · simp only [bigSigma0, getLsbD_xorW, hrot 28 (by decide), hrot 34 (by decide), hrot 39 (by decide)]
  · simp only [bigSigma1, getLsbD_xorW, hrot 14 (by decide), hrot 18 (by decide), hrot 41 (by decide)]

theorem getLsbD_notW (x : BitVec w) {j : Nat} (hj : j < w) : (notW x).getLsbD j = !x.getLsbD j := by
  simp [notW, hj]

theorem getLsbD_fCh (x y z : BitVec w) {j : Nat} (hj : j < w) :
    (fCh x y z).getLsbD j = if x.getLsbD j then y.getLsbD j else z.getLsbD j := by
  cases hx : x.getLsbD j <;> simp [fCh, getLsbD_notW _ hj, hx]

theorem getLsbD_fPar (x y z : BitVec w) (j : Nat) :
    (fPar x y z).getLsbD j = ((x.getLsbD j ^^ y.getLsbD j) ^^ z.getLsbD j) := by
  simp only [fPar, getLsbD_xorW]

theorem getLsbD_fMaj (x y z : BitVec w) (j : Nat) :
    (fMaj x y z).getLsbD j = decide (2 ≤ (x.getLsbD j).toNat + (y.getLsbD j).toNat + (z.getLsbD j).toNat) := by
  simp only [fMaj, getLsbD_orW, getLsbD_andW]
  generalize x.getLsbD j = a, y.getLsbD j = b, z.getLsbD j = c
  decide +revert

/-- The select functions of the two families agree: the two terms never meet in a bit. -/
theorem ch_eq_fCh (x y z : BitVec w) : ch x y z = fCh x y z := by
  apply BitVec.eq_of_getLsbD_eq
  intro j hj
  cases hx : x.getLsbD j <;> simp [ch, fCh, getLsbD_notW _ hj, hx]

/-- The majority functions of the two families agree: of the three terms one or all three hold in a bit. -/
theorem maj_eq_fMaj (x y z : BitVec w) : maj x y z = fMaj x y z := by
  apply BitVec.eq_of_getLsbD_eq
  intro j _
  simp only [maj, fMaj, getLsbD_xorW, getLsbD_orW, getLsbD_andW]
  generalize x.getLsbD j = a, y.getLsbD j = b, z.getLsbD j = c
  decide +revert

/-- Settles O17: the bits of each function, and the two agreements. -/
theorem selectParityMajorityBitByBit : Obligations.SelectParityMajorityBitByBit :=
  fun _ x y z j hj => ⟨getLsbD_fCh x y z hj, getLsbD_fPar x y z j, getLsbD_fMaj x y z j, ch_eq_fCh x y z,
    maj_eq_fMaj x y z⟩

end Sys2Proof.Machine
end

section
/-! The micro-operations on the register files (43_compression.md R136, R149, 45_commands.md R173). -/

namespace Sys2Proof.Machine

/-- Settles O20: `SEED` is the assignment of the whole file. -/
theorem seedCopiesRunningDigest : Obligations.SeedCopiesRunningDigest := fun _ _ _ => ⟨fun _ _ => rfl, rfl⟩

theorem get_foldWords {w n : Nat} (H V : RegFile w n) {i : Nat} (h : i < n) :
    RegFile.get (foldWords H V) i = addW (RegFile.get H i) (RegFile.get V i) := RegFile.get_ofFn _ h

/-- Settles O21: each word of the sum is `ADD` of the two words. -/
theorem foldAddsWordByWord : Obligations.FoldAddsWordByWord := by
  intro F block c
  refine ⟨fun i hi => ?_, rfl⟩
  rw [MicroOp.run, get_foldWords _ _ hi, addW, BitVec.toNat_add]

/-- The entries of the table fit a word (00_scope.md R8), so loading one loses nothing. -/
theorem toNat_iv (F : Descriptor) {i : Nat} (h : i < F.nh) : (F.iv i).toNat = F.IV.getD i 0 := by
  obtain ⟨-, -, hlen, -, hfit, -⟩ := F.wf_document
  have hi : i < F.IV.length := hlen.symm ▸ h
  have hlt : F.IV.getD i 0 < 2 ^ F.w := by
    rw [List.getD_eq_getElem _ _ hi]
    exact hfit _ (List.getElem_mem hi)
  rw [Descriptor.iv, BitVec.toNat_ofNat, Nat.mod_eq_of_lt hlt]

/-- Settles O22: each word is the table's, as an integer. -/
theorem loadivLoadsTable : Obligations.LoadivLoadsTable := by
  intro F block c
  refine ⟨fun i hi => ?_, rfl⟩
  rw [MicroOp.run, ivFile, RegFile.get_ofFn _ hi, toNat_iv F hi]

end Sys2Proof.Machine
end

section
/-! The schedule as one loop (42_schedule.md R121 to R128): `DECODE` and the expansion write `W[0]`, `W[1]`, … in this
order, each word from the words before it. -/

namespace Sys2Proof.Machine

variable {F : Descriptor} {block : List Byte} {W W' : RegFile F.w F.nr}

/-- The word written at index `i`: the block's own below `cc`, the recurrence's from there on. -/
def scheduleWord (F : Descriptor) (block : List Byte) (W : RegFile F.w F.nr) (i : Nat) : BitVec F.w :=
  if i < F.cc then blockWord F block i else expandWord F W i

/-- The write of index `i`. -/
def scheduleWrite (F : Descriptor) (block : List Byte) (W : RegFile F.w F.nr) (i : Nat) : RegFile F.w F.nr :=
  RegFile.put W i (scheduleWord F block W i)

/-- The schedule after its first `t` writes, over the former content `W`. -/
def schedPrefix (F : Descriptor) (block : List Byte) (W : RegFile F.w F.nr) (t : Nat) : RegFile F.w F.nr :=
  (List.range t).foldl (scheduleWrite F block) W

theorem schedPrefix_succ (t : Nat) : schedPrefix F block W (t + 1) =
    RegFile.put (schedPrefix F block W t) t (scheduleWord F block (schedPrefix F block W t) t) := by
  simp [schedPrefix, List.range_succ, scheduleWrite]

/-- The loop is the model's schedule: `DECODE` is its first `cc` writes, the expansion the others. -/
theorem schedOver_eq_schedPrefix (F : Descriptor) (block : List Byte) (W : RegFile F.w F.nr) :
    schedOver F block W = schedPrefix F block W F.nr := by
  have hrange : List.range F.nr = decodeIndices F ++ expandIndices F := by
    have hsplit := List.range'_append_1 (s := 0) (m := F.cc) (n := F.nr - F.cc)
    rw [Nat.zero_add, Nat.add_sub_cancel' F.cc_le_nr] at hsplit
    rw [decodeIndices, expandIndices, List.range_eq_range', List.range_eq_range', hsplit]
  have hcopy : (decodeIndices F).foldl (scheduleWrite F block) W = (decodeIndices F).foldl (decodeWord F block) W := by
    refine List.foldl_ext _ _ _ fun W i hi => ?_
    rw [scheduleWrite, scheduleWord, if_pos (List.mem_range.mp hi), decodeWord]
  have hderive (W : RegFile F.w F.nr) :
      (expandIndices F).foldl (scheduleWrite F block) W = (expandIndices F).foldl (expand F) W := by
    refine List.foldl_ext _ _ _ fun W i hi => ?_
    rw [scheduleWrite, scheduleWord, if_neg (Nat.not_lt.mpr (List.left_le_of_mem_range' hi)), expand]
  rw [schedOver, schedPrefix, hrange, List.foldl_append, hcopy, hderive]

/-- A write changes no earlier word. -/
theorem get_schedPrefix_of_le {i t u : Nat} (hi : i < t) (h : t ≤ u) :
    RegFile.get (schedPrefix F block W u) i = RegFile.get (schedPrefix F block W t) i := by
  induction u, h using Nat.le_induction with
  | base => rfl
  | succ u hu ih => rw [schedPrefix_succ, RegFile.get_put_of_ne _ (by omega), ih]

/-- The recurrence looks back at least one word and at most 16, and the block gives at least 16. -/
theorem scheduleWord_congr {i : Nat} (h : ∀ j, j < i → RegFile.get W j = RegFile.get W' j) :
    scheduleWord F block W i = scheduleWord F block W' i := by
  unfold scheduleWord
  split_ifs with hi
  · rfl
  · have hback : 16 ≤ i := F.sixteen_le_cc.trans (Nat.not_lt.mp hi)
    have hsame (d : Nat) (h0 : 0 < d) : RegFile.get W (i - d) = RegFile.get W' (i - d) := h _ (by omega)
    cases hfam : F.fam <;> simp [expandWord, hfam, expandWord1, expandWord2, hsame]

/-- Every word of the finished schedule is the word its index asks for, read off the finished schedule. -/
theorem get_schedOver (W : RegFile F.w F.nr) {i : Nat} (h : i < F.nr) :
    RegFile.get (schedOver F block W) i = scheduleWord F block (schedOver F block W) i := by
  rw [schedOver_eq_schedPrefix]
  calc RegFile.get (schedPrefix F block W F.nr) i
      = RegFile.get (schedPrefix F block W (i + 1)) i := get_schedPrefix_of_le (Nat.lt_succ_self i) h
    _ = scheduleWord F block (schedPrefix F block W i) i := by rw [schedPrefix_succ, RegFile.get_put_self _ h]
    _ = scheduleWord F block (schedPrefix F block W F.nr) i :=
        scheduleWord_congr fun j hj => (get_schedPrefix_of_le hj h.le).symm

/-- Settles O14: a finished word is the word its index asks for, and that is the block's word or the recurrence of the
family. -/
theorem scheduleSatisfiesRecurrence : Obligations.ScheduleSatisfiesRecurrence := by
  intro F block
  refine ⟨fun k hk => ?copied, fun i hcc hnr => ⟨fun hfam => ?sha1, fun hfam => ?sha2⟩⟩
  case copied => rw [sched, get_schedOver _ (hk.trans_le F.cc_le_nr), scheduleWord, if_pos hk]
  case sha1 =>
    rw [sched, get_schedOver _ hnr, scheduleWord, if_neg (Nat.not_lt.mpr hcc), expandWord, hfam]
    rfl
  case sha2 =>
    rw [sched, get_schedOver _ hnr, scheduleWord, if_neg (Nat.not_lt.mpr hcc), expandWord, hfam]
    rfl

/-- Settles O15: two finished schedules over the same block agree word by word, by induction on the index: each word
is made from earlier words only. -/
theorem scheduleForgetsFormerContent : Obligations.ScheduleForgetsFormerContent := by
  intro F block W
  apply RegFile.ext_get
  intro i
  induction i using Nat.strong_induction_on with
  | _ i ih =>
    intro hi
    rw [sched, get_schedOver _ hi, get_schedOver _ hi]
    exact scheduleWord_congr fun j hj => ih j hj (hj.trans hi)

end Sys2Proof.Machine
end

section
/-! The 16-entry window of 42_schedule.md R129: after `t` rounds it holds the last words of the full schedule, and the
working variables are those of the engine after `t` rounds. -/

namespace Sys2Proof.Machine

variable {F : Descriptor} {block : List Byte}

/-- The working variables after the first `t` rounds over a schedule. -/
def roundsPrefix (F : Descriptor) (W : RegFile F.w F.nr) (V : RegFile F.w F.nh) (t : Nat) : RegFile F.w F.nh :=
  (List.range t).foldl (fun V t => roundOp F t (RegFile.get W t) V) V

theorem roundsPrefix_succ (W : RegFile F.w F.nr) (V : RegFile F.w F.nh) (t : Nat) :
    roundsPrefix F W V (t + 1) = roundOp F t (RegFile.get W t) (roundsPrefix F W V t) := by
  simp [roundsPrefix, List.range_succ]

theorem rounds_eq_roundsPrefix (F : Descriptor) (W : RegFile F.w F.nr) (V : RegFile F.w F.nh) :
    rounds F W V = roundsPrefix F W V F.nr := rfl

/-- A window holds the words before index `t` of the schedule `W`, as far back as 16 words. -/
def WindowHolds (W : RegFile F.w F.nr) (window : List (BitVec F.w)) (t : Nat) : Prop :=
  ∀ d, 0 < d → d ≤ 16 → d ≤ t → back window d = RegFile.get W (t - d)

/-- Pushing a word and dropping what is older than 16 words keeps the window. -/
theorem WindowHolds.push {W : RegFile F.w F.nr} {window : List (BitVec F.w)} {t : Nat} (h : WindowHolds W window t) :
    WindowHolds W ((RegFile.get W t :: window).take 16) (t + 1) := by
  intro d h0 h16 ht
  obtain _ | _ | d := d
  · omega
  · rfl
  · have hold := h (d + 1) (by omega) (by omega) (by omega)
    have hidx : t + 1 - (d + 2) = t - (d + 1) := by omega
    have hd : d < 15 := by omega
    rw [hidx, ← hold]
    simp [back, List.getD, hd]

/-- The word computed from the window is the schedule's. -/
theorem windowWord_eq {window : List (BitVec F.w)} {t : Nat} (h : WindowHolds (sched F block) window t)
    (ht : t < F.nr) : windowWord F block window t = RegFile.get (sched F block) t := by
  rw [sched, get_schedOver _ ht, ← sched, scheduleWord, windowWord]
  split_ifs with hcc
  · rfl
  · have hback : 16 ≤ t := F.sixteen_le_cc.trans (Nat.not_lt.mp hcc)
    have hword (d : Nat) (h0 : 0 < d) (hd : d ≤ 16) := h d h0 hd (hd.trans hback)
    cases hfam : F.fam <;> simp [expandWord, hfam, expandWord1, expandWord2, hword]

/-- After `t` rounds with the window. -/
theorem windowRounds_invariant (F : Descriptor) (h : RegFile F.w F.nh) (block : List Byte) {t : Nat} (ht : t ≤ F.nr) :
    WindowHolds (sched F block) ((List.range t).foldl (windowRound F block) ([], h)).1 t ∧
      ((List.range t).foldl (windowRound F block) ([], h)).2 = roundsPrefix F (sched F block) h t := by
  induction t with
  | zero => exact ⟨fun d h0 _ hd => by omega, rfl⟩
  | succ t ih =>
    obtain ⟨hwindow, hV⟩ := ih (by omega)
    have hword := windowWord_eq hwindow ht
    rw [List.range_succ, List.foldl_concat, windowRound, hword, hV, ← roundsPrefix_succ]
    exact ⟨hwindow.push, rfl⟩

/-- Settles O16: after all `nr` rounds the working variables are the same, and so is the sum. -/
theorem slidingWindowGivesSameDigest : Obligations.SlidingWindowGivesSameDigest := by
  intro F h block
  obtain ⟨-, hV⟩ := windowRounds_invariant F h block le_rfl
  rw [compressWindow, roundIndices, hV, ← rounds_eq_roundsPrefix, compress]

end Sys2Proof.Machine
end

section
/-! The micro-operations of one block in their order (45_commands.md R176). -/

namespace Sys2Proof.Machine

variable {F : Descriptor}

theorem runOps_decode (block : List Byte) (ks : List Nat) (c : CoreState F) :
    (ks.map MicroOp.decode).foldl (MicroOp.run block) c = { c with W := ks.foldl (decodeWord F block) c.W } := by
  induction ks generalizing c with
  | nil => rfl
  | cons k ks ih => exact ih _

theorem runOps_expand (block : List Byte) (is : List Nat) (c : CoreState F) :
    (is.map MicroOp.expand).foldl (MicroOp.run block) c = { c with W := is.foldl (expand F) c.W } := by
  induction is generalizing c with
  | nil => rfl
  | cons i is ih => exact ih _

theorem runOps_round (block : List Byte) (ts : List Nat) (c : CoreState F) :
    (ts.map MicroOp.round).foldl (MicroOp.run block) c =
      { c with V := ts.foldl (fun V t => roundOp F t (RegFile.get c.W t) V) c.V } := by
  induction ts generalizing c with
  | nil => rfl
  | cons t ts ih => exact ih _

/-- Settles O23: the groups of micro-operations one after another; the schedule they leave is `sched(F, B)` because the
former content of `W` has no influence. -/
theorem blockSequenceIsCompress : Obligations.BlockSequenceIsCompress := by
  intro F block c
  have hsched : schedOver F block c.W = sched F block := scheduleForgetsFormerContent F block c.W
  rw [schedOver] at hsched
  simp only [blockSeq, blockOps, List.foldl_append, runOps_decode, runOps_expand, runOps_round, List.foldl_cons,
    List.foldl_nil, MicroOp.run, hsched]
  rfl

end Sys2Proof.Machine
end

section
/-! What each command does, as one relation (45_commands.md R170 to R177): from here on a proof about commands is a case
split over its constructors. -/

namespace Sys2Proof.Machine

/-! ### Each meaning where it applies -/

/-- The phases in which a block is accepted (R174, R175). -/
theorem takesBlock_eq_true_iff (PH : Phase) : PH.takesBlock = true ↔ PH = .pending ∨ PH = .compressed := by
  cases PH <;> decide

/-- The state `INIT` leaves (R172). -/
def afterInit (s : State) : State :=
  { s with core := { s.core with PH := .pending, ERR := false, CAUSE := .none, H := ivFile s.F } }

/-- The state a compressed block leaves in the phase `after` (R174, R175, 43_compression.md R152). -/
def afterBlock (after : Phase) (block : List Byte) (s : State) : State :=
  { s with core := { s.core with
    PH := after
    H := compress s.F s.core.H block
    V := rounds s.F (sched s.F block) s.core.H
    W := sched s.F block } }

@[simp] theorem afterInit_F (s : State) : (afterInit s).F = s.F := rfl
@[simp] theorem afterInit_PH (s : State) : (afterInit s).core.PH = .pending := rfl
@[simp] theorem afterInit_ERR (s : State) : (afterInit s).core.ERR = false := rfl
@[simp] theorem afterInit_CAUSE (s : State) : (afterInit s).core.CAUSE = .none := rfl

variable (after : Phase) (block : List Byte)

@[simp] theorem afterBlock_F (s : State) : (afterBlock after block s).F = s.F := rfl
@[simp] theorem afterBlock_PH (s : State) : (afterBlock after block s).core.PH = after := rfl
@[simp] theorem afterBlock_ERR (s : State) : (afterBlock after block s).core.ERR = s.core.ERR := rfl
@[simp] theorem afterBlock_CAUSE (s : State) : (afterBlock after block s).core.CAUSE = s.core.CAUSE := rfl

theorem exec_nop (s : State) : exec .nop s = .next s := rfl

theorem exec_init (s : State) : exec .init s = .next (afterInit s) := rfl

theorem exec_next (s : State) : exec (.next block) s = compressThen .compressed block s := rfl

theorem exec_nextl (s : State) : exec (.nextl block) s = compressThen .final block s := rfl

/-- The four reserved codes (30_encoding.md R74). -/
inductive Reserved : Instr → Prop
  | r011 : Reserved .reserved011
  | r100 : Reserved .reserved100
  | r101 : Reserved .reserved101
  | r111 : Reserved .reserved111

/-- The two commands of format `B`: the block each carries and the phase it leaves (R174, R175). -/
inductive BlockCommand : Instr → List Byte → Phase → Prop
  | next (block : List Byte) : BlockCommand (.next block) block .compressed
  | nextl (block : List Byte) : BlockCommand (.nextl block) block .final

theorem exec_reserved {i : Instr} (h : Reserved i) (s : State) : exec i s = illegalCommand s := by
  cases h <;> rfl

variable {after block}

/-- A block the port can present has the port's width (20_memory.md R54). -/
theorem BlockCommand.length_eq {bs : Nat} {i : Instr} (hi : BlockCommand i block after)
    (h : i.wellFormed bs = true) : block.length = bs := by
  cases hi <;> simpa [Instr.wellFormed] using h

theorem exec_blockCommand {i : Instr} (h : BlockCommand i block after) (s : State) :
    exec i s = compressThen after block s := by
  cases h <;> rfl

variable {s : State}

theorem illegalCommand_of_sound (herr : Sound s) : illegalCommand s = .next (raiseFault .illegalCmd s) := by
  rw [illegalCommand_eq, if_neg (by simp [herr])]

theorem not_sound_of_faulted (herr : s.core.ERR = true) : ¬Sound s := by simp [Sound, herr]

theorem illegalCommand_of_faulted (herr : s.core.ERR = true) : illegalCommand s = .next s := if_pos herr

theorem compressThen_of_faulted (herr : s.core.ERR = true) : compressThen after block s = .next s := if_pos herr

theorem unlessFaulted_of_sound (herr : Sound s) (k : State → Host.Outcome State Fault Refusal) :
    unlessFaulted s k = k s := if_neg (by simp [herr])

theorem compressThen_of_out_of_phase (herr : Sound s) (hphase : s.core.PH = .idle ∨ s.core.PH = .final) :
    compressThen after block s = .next (raiseFault .phase s) := by
  have htakes : ¬s.core.PH.takesBlock = true := by simp [(takesBlock_eq_false_iff _).mpr hphase]
  rw [compressThen, unlessFaulted_of_sound herr, if_neg htakes]

theorem compressThen_of_wrong_width (herr : Sound s) (hphase : s.core.PH = .pending ∨ s.core.PH = .compressed)
    (hwidth : block.length ≠ s.F.bs) : compressThen after block s = .fault .blockWidth := by
  rw [compressThen, unlessFaulted_of_sound herr, if_pos ((takesBlock_eq_true_iff _).mpr hphase), if_neg hwidth]

/-- `BLOCKSEQ` and then the phase, in one assignment. -/
theorem blockSeq_then_phase (s : State) :
    { s with core := { blockSeq block s.core with PH := after } } = afterBlock after block s := by
  rw [blockSequenceIsCompress s.F block s.core]
  rfl

theorem compressThen_of_accepted (herr : Sound s) (hphase : s.core.PH = .pending ∨ s.core.PH = .compressed)
    (hwidth : block.length = s.F.bs) : compressThen after block s = .next (afterBlock after block s) := by
  rw [compressThen, unlessFaulted_of_sound herr, if_pos ((takesBlock_eq_true_iff _).mpr hphase), if_pos hwidth,
    blockSeq_then_phase]

/-! ### The obligations on single commands -/

/-- Settles O24: the meaning of `NOP` is the state itself. -/
theorem nopChangesNothing : Obligations.NopChangesNothing := exec_nop

/-- Settles O25: the meaning of `INIT` is one assignment. -/
theorem initStartsInvocation : Obligations.InitStartsInvocation := exec_init

/-- Settles O26: the block is accepted, and `BLOCKSEQ` is one assignment. -/
theorem nextCompressesBlock : Obligations.NextCompressesBlock := fun s block herr hphase hwidth =>
  (exec_next block s).trans (compressThen_of_accepted herr hphase hwidth)

/-- Settles O27: as for `NEXT`. -/
theorem nextlCompressesLastBlock : Obligations.NextlCompressesLastBlock := fun s block herr hphase hwidth =>
  (exec_nextl block s).trans (compressThen_of_accepted herr hphase hwidth)

/-- Settles O28: the four codes have the one meaning of a reserved code. -/
theorem reservedCodesRaiseIllegalCommand : Obligations.ReservedCodesRaiseIllegalCommand := by
  intro s i herr hi
  have hreserved : Reserved i := by
    rcases hi with rfl | rfl | rfl | rfl
    exacts [.r011, .r100, .r101, .r111]
  exact (exec_reserved hreserved s).trans (illegalCommand_of_sound herr)

/-- Settles O29: no block is accepted in these phases. -/
theorem blockOutOfPhaseRaisesPhase : Obligations.BlockOutOfPhaseRaisesPhase := fun s block herr hphase =>
  ⟨(exec_next block s).trans (compressThen_of_out_of_phase herr hphase),
    (exec_nextl block s).trans (compressThen_of_out_of_phase herr hphase)⟩

/-- Settles O30: of the commands other than `INIT`, `NOP` has no effect and the others begin with the check of the
latched fault. -/
theorem latchedFaultDiscardsCommands : Obligations.LatchedFaultDiscardsCommands := by
  intro s i herr hinit
  cases i with
  | nop => rfl
  | init => exact absurd rfl hinit
  | next _ | nextl _ => exact compressThen_of_faulted herr
  | reserved011 | reserved100 | reserved101 | reserved111 => exact illegalCommand_of_faulted herr

/-- Settles O31: the block would be compressed and has the wrong width. -/
theorem wrongBlockWidthStops : Obligations.WrongBlockWidthStops := fun s block herr hphase hwidth =>
  ⟨(exec_next block s).trans (compressThen_of_wrong_width herr hphase hwidth),
    (exec_nextl block s).trans (compressThen_of_wrong_width herr hphase hwidth)⟩

/-! ### Everything a command can do -/

/-- How a command that completes changes the state (R170 to R176). -/
inductive CommandEffect (s : State) : Instr → State → Prop
  /-- `NOP`, and every command but `INIT` while a fault is latched. -/
  | nothing {i : Instr} (hinit : i ≠ .init) (h : i = .nop ∨ s.core.ERR = true) : CommandEffect s i s
  | started : CommandEffect s .init (afterInit s)
  | illegal {i : Instr} (hi : Reserved i) (herr : Sound s) : CommandEffect s i (raiseFault .illegalCmd s)
  | outOfPhase {i : Instr} {block : List Byte} {after : Phase} (hi : BlockCommand i block after) (herr : Sound s)
      (hphase : s.core.PH = .idle ∨ s.core.PH = .final) : CommandEffect s i (raiseFault .phase s)
  | compressed {i : Instr} {block : List Byte} {after : Phase} (hi : BlockCommand i block after) (herr : Sound s)
      (hphase : s.core.PH = .pending ∨ s.core.PH = .compressed) (hwidth : block.length = s.F.bs) :
      CommandEffect s i (afterBlock after block s)

theorem CommandEffect.of_reserved {i : Instr} {s' : State} (hi : Reserved i) (h : exec i s = .next s') :
    CommandEffect s i s' := by
  rw [exec_reserved hi] at h
  rcases illegalCommand_cases h with ⟨herr, hout⟩ | ⟨herr, hout⟩ <;> cases hout
  · exact .nothing (by rintro rfl; cases hi) (.inr herr)
  · exact .illegal hi herr

theorem CommandEffect.of_blockCommand {i : Instr} {s' : State} (hi : BlockCommand i block after)
    (h : exec i s = .next s') : CommandEffect s i s' := by
  rw [exec_blockCommand hi] at h
  rcases compressThen_cases h with
    ⟨herr, hout⟩ | ⟨herr, hphase, hout⟩ | ⟨herr, hphase, hwidth, hout⟩ | ⟨-, -, -, hout⟩ <;> cases hout
  · exact .nothing (by rintro rfl; cases hi) (.inr herr)
  · exact .outOfPhase hi herr ((takesBlock_eq_false_iff _).mp hphase)
  · rw [blockSeq_then_phase]
    exact .compressed hi herr ((takesBlock_eq_true_iff _).mp hphase) hwidth

theorem CommandEffect.of_exec {i : Instr} {s' : State} (h : exec i s = .next s') : CommandEffect s i s' := by
  cases i with
  | nop => cases h; exact .nothing (by simp) (.inl rfl)
  | init => cases h; exact .started
  | next block => exact .of_blockCommand (.next block) h
  | nextl block => exact .of_blockCommand (.nextl block) h
  | reserved011 => exact .of_reserved .r011 h
  | reserved100 => exact .of_reserved .r100 h
  | reserved101 => exact .of_reserved .r101 h
  | reserved111 => exact .of_reserved .r111 h

/-- Settles O32: each effect has its phase; a block command is taken exactly where the effect is a compressed block. -/
theorem phaseTransitionTable : Obligations.PhaseTransitionTable := by
  intro s s' i h
  cases CommandEffect.of_exec h with
  | nothing hinit hskip =>
    rcases hskip with rfl | herr
    · rfl
    · cases i with
      | init => exact absurd rfl hinit
      | nop | next _ | nextl _ | reserved011 | reserved100 | reserved101 | reserved111 => simp [herr]
  | started => rfl
  | illegal hi _ => cases hi <;> rfl
  | outOfPhase hi _ hphase =>
    have htakes := (takesBlock_eq_false_iff _).mpr hphase
    cases hi <;> simp [htakes]
  | compressed hi herr hphase _ =>
    have htakes := (takesBlock_eq_true_iff _).mpr hphase
    cases hi <;> simp [htakes, herr]

/-- Settles O33: of the effects only `INIT` and a compressed block have another `H`. -/
theorem onlyLoadivAndFoldWriteRunningDigest : Obligations.OnlyLoadivAndFoldWriteRunningDigest := by
  intro F c c' port n i h hH
  cases CommandEffect.of_exec h with
  | nothing => exact absurd rfl hH
  | started => exact .inl ⟨rfl, rfl⟩
  | illegal => exact absurd rfl hH
  | outOfPhase => exact absurd rfl hH
  | @compressed _ block _ hi =>
    cases hi
    · exact .inr ⟨block, .inl rfl, rfl⟩
    · exact .inr ⟨block, .inr rfl, rfl⟩

/-- Every command the port can present completes, and what it does to the engine does not depend on the events still to
come or on the count of resets. -/
theorem exec_of_wellFormed {F : Descriptor} {i : Instr} (c : CoreState F) (h : i.wellFormed F.bs = true) :
    ∃ c' : CoreState F, ∀ port n, exec i ⟨F, c, port, n⟩ = .next ⟨F, c', port, n⟩ := by
  have hreserved (hi : Reserved i) :
      ∃ c' : CoreState F, ∀ port n, exec i ⟨F, c, port, n⟩ = .next ⟨F, c', port, n⟩ := by
    simp only [exec_reserved hi]
    cases herr : c.ERR with
    | true => exact ⟨c, fun _ _ => illegalCommand_of_faulted herr⟩
    | false => exact ⟨(raiseFault .illegalCmd ⟨F, c, [], 0⟩).core, fun _ _ => illegalCommand_of_sound herr⟩
  have hblock {block : List Byte} {after : Phase} (hi : BlockCommand i block after) :
      ∃ c' : CoreState F, ∀ port n, exec i ⟨F, c, port, n⟩ = .next ⟨F, c', port, n⟩ := by
    have hwidth : block.length = F.bs := hi.length_eq h
    simp only [exec_blockCommand hi]
    cases herr : c.ERR with
    | true => exact ⟨c, fun _ _ => compressThen_of_faulted herr⟩
    | false =>
      cases htakes : c.PH.takesBlock with
      | false =>
        have hphase := (takesBlock_eq_false_iff _).mp htakes
        exact ⟨(raiseFault .phase ⟨F, c, [], 0⟩).core, fun _ _ => compressThen_of_out_of_phase herr hphase⟩
      | true =>
        have hphase := (takesBlock_eq_true_iff _).mp htakes
        exact ⟨(afterBlock after block ⟨F, c, [], 0⟩).core, fun _ _ => compressThen_of_accepted herr hphase hwidth⟩
  cases i with
  | nop => exact ⟨c, fun _ _ => rfl⟩
  | init => exact ⟨(afterInit ⟨F, c, [], 0⟩).core, fun _ _ => rfl⟩
  | next block => exact hblock (.next block)
  | nextl block => exact hblock (.nextl block)
  | reserved011 => exact hreserved .r011
  | reserved100 => exact hreserved .r100
  | reserved101 => exact hreserved .r101
  | reserved111 => exact hreserved .r111

end Sys2Proof.Machine
end

section
/-! What one step does (30_encoding.md R70, 70_reset_and_hazards.md R210), and what every step keeps. -/

namespace Sys2Proof.Machine

/-- Settles O36: the step takes the event off the list and executes the command. -/
theorem stepExecutesDecodedCommand : Obligations.StepExecutesDecodedCommand :=
  fun F c cmd rest n => step_of_port_cons F c (.command cmd) rest n

/-- Settles O37: the step takes an idle boundary off the list, or finds the list empty. -/
theorem nothingAcceptedNothingChanges : Obligations.NothingAcceptedNothingChanges :=
  fun F c rest n => ⟨step_of_port_cons F c .idle rest n, step_of_port_nil rfl⟩

/-- Everything a step can do. -/
inductive StepEffect : State → State → Prop
  | nothing {s : State} (hport : s.port = []) : StepEffect s s
  | idle (F : Descriptor) (c : CoreState F) (rest : List (PortEvent F.bs)) (n : Nat) :
      StepEffect ⟨F, c, .idle :: rest, n⟩ ⟨F, c, rest, n⟩
  | reset (F : Descriptor) (c : CoreState F) (rest : List (PortEvent F.bs)) (n : Nat) :
      StepEffect ⟨F, c, .reset :: rest, n⟩ (resetEvent ⟨F, c, rest, n⟩)
  | command {F : Descriptor} {c : CoreState F} {cmd : BitVec (cmdWidth F.bs)} {rest : List (PortEvent F.bs)} {n : Nat}
      {s' : State} (h : CommandEffect ⟨F, c, rest, n⟩ (decode F.bs cmd) s') :
      StepEffect ⟨F, c, .command cmd :: rest, n⟩ s'

theorem StepEffect.of_step {s s' : State} (h : step s = .next s') : StepEffect s s' := by
  obtain ⟨F, c, port, n⟩ := s
  cases port with
  | nil =>
    rw [step_of_port_nil rfl] at h
    cases h
    exact .nothing rfl
  | cons e rest =>
    rw [step_of_port_cons] at h
    cases e with
    | idle => cases h; exact .idle F c rest n
    | reset => cases h; exact .reset F c rest n
    | command cmd => exact .command (.of_exec h)

/-- A step with an event left takes it off the list and completes: a decoded command is one the port can present. -/
theorem exists_step (F : Descriptor) (c : CoreState F) (e : PortEvent F.bs) (rest : List (PortEvent F.bs)) (n : Nat) :
    ∃ (c' : CoreState F) (n' : Nat), step ⟨F, c, e :: rest, n⟩ = .next ⟨F, c', rest, n'⟩ := by
  rw [step_of_port_cons]
  cases e with
  | idle => exact ⟨c, n, rfl⟩
  | reset => exact ⟨_, n + 1, rfl⟩
  | command cmd =>
    obtain ⟨c', h⟩ := exec_of_wellFormed c (decodedCommandsAreWellFormed F.bs cmd)
    exact ⟨c', n, h rest n⟩

/-- Settles O40: a step takes an event off the list or finds the list empty, and completes either way. -/
theorem everyStepHasNextState : Obligations.EveryStepHasNextState := by
  rintro ⟨F, c, port, n⟩
  cases port with
  | nil => exact ⟨_, step_of_port_nil rfl⟩
  | cons e rest =>
    obtain ⟨c', n', h⟩ := exists_step F c e rest n
    exact ⟨_, h⟩

theorem CommandEffect.F_eq {s s' : State} {i : Instr} (h : CommandEffect s i s') : s'.F = s.F := by
  cases h <;> rfl

/-- Settles O41: no effect of a step writes the descriptor. -/
theorem descriptorNeverChanges : Obligations.DescriptorNeverChanges := by
  intro s s' h
  cases StepEffect.of_step h with
  | command heffect => exact heffect.F_eq
  | nothing | idle | reset => rfl

/-- The registers agree after every command: fault entry writes a cause, `INIT` clears both, and nothing else writes
either. -/
theorem CommandEffect.faultRegistersAgree {s s' : State} {i : Instr} (h : CommandEffect s i s')
    (hagree : FaultRegistersAgree s) : FaultRegistersAgree s' := by
  cases h with
  | nothing => exact hagree
  | started => simp [FaultRegistersAgree]
  | illegal => simp [FaultRegistersAgree]
  | outOfPhase => simp [FaultRegistersAgree]
  | compressed => exact hagree

/-- Settles O42: the registers agree after every effect of a step. -/
theorem faultRegistersAgreeAfterEveryStep : Obligations.FaultRegistersAgreeAfterEveryStep := by
  intro s s' hagree h
  cases StepEffect.of_step h with
  | nothing => exact hagree
  | idle => exact hagree
  | reset => simp [FaultRegistersAgree]
  | command heffect => exact heffect.faultRegistersAgree hagree

/-- Settles O43: both registers are clear after reset. -/
theorem faultRegistersAgreeAtReset : Obligations.FaultRegistersAgreeAtReset := fun _ => ⟨fun _ => rfl, fun _ => rfl⟩

/-- A command that leaves a fault is `INIT`. -/
theorem CommandEffect.eq_init_of_leaves_fault {s s' : State} {i : Instr} (h : CommandEffect s i s')
    (herr : s.core.ERR = true) (herr' : s'.core.ERR = false) : i = .init := by
  cases h with
  | started => rfl
  | nothing => exact absurd herr' (not_sound_of_faulted herr)
  | illegal _ hsound => exact absurd hsound (not_sound_of_faulted herr)
  | outOfPhase _ hsound => exact absurd hsound (not_sound_of_faulted herr)
  | compressed _ hsound => exact absurd hsound (not_sound_of_faulted herr)

/-- Settles O44: an idle boundary keeps `ERR`, and the only command that clears it is `INIT`. -/
theorem onlyInitAndResetLeaveFault : Obligations.OnlyInitAndResetLeaveFault := by
  intro s s' herr h herr'
  cases StepEffect.of_step h with
  | nothing => exact absurd herr' (not_sound_of_faulted herr)
  | idle => exact absurd herr' (not_sound_of_faulted herr)
  | reset _ _ rest => exact ⟨rest, .inl rfl⟩
  | @command _ _ cmd rest _ _ heffect =>
    exact ⟨rest, .inr ⟨cmd, rfl, heffect.eq_init_of_leaves_fault herr herr'⟩⟩

end Sys2Proof.Machine
end

section
/-! The status port (10_state.md R28) and what reset leaves on it (R39, 70_reset_and_hazards.md R210). The port is a
numeral whose fields are read off by division. -/

namespace Sys2Proof.Machine

theorem toNat_append_eq_add {m n : Nat} (x : BitVec m) (y : BitVec n) :
    (x ++ y).toNat = x.toNat * 2 ^ n + y.toNat := by
  rw [BitVec.toNat_append, ← Nat.shiftLeft_add_eq_or_of_lt y.isLt, Nat.shiftLeft_eq]

theorem getLsbD_eq_decide {n : Nat} (x : BitVec n) (i : Nat) : x.getLsbD i = decide (x.toNat / 2 ^ i % 2 = 1) := by
  rw [← BitVec.testBit_toNat, Nat.testBit_eq_decide_div_mod_eq]

/-- The `cause` field: `CAUSE`, or 0 while there is no fault (R28). -/
def causeField (ERR : Bool) (CAUSE : Cause) : BitVec 3 := if ERR then CAUSE.code else 0b000#3

/-- The port as the numeral of its fields. -/
theorem toNat_status {F : Descriptor} (c : CoreState F) :
    (status c).toNat = (causeField c.ERR c.CAUSE).toNat * 2 ^ 5 + c.ERR.toNat * 2 ^ 4 +
      (digestValid c).toNat * 2 ^ 3 + 1 * 2 ^ 2 + c.PH.code.toNat := by
  have hlayout : (status c).toNat = (causeField c.ERR c.CAUSE ++ BitVec.ofBool c.ERR ++ BitVec.ofBool (digestValid c)
    ++ 1#1 ++ c.PH.code).toNat := rfl
  rw [hlayout]
  simp only [toNat_append_eq_add, BitVec.toNat_ofBool, BitVec.toNat_ofNat]
  omega

/-- Each field of the numeral, by division. -/
theorem status_digits {F : Descriptor} (c : CoreState F) :
    (status c).toNat % 2 ^ 2 = c.PH.code.toNat ∧ (status c).toNat / 2 ^ 2 % 2 = 1 ∧
    (status c).toNat / 2 ^ 3 % 2 = (digestValid c).toNat ∧ (status c).toNat / 2 ^ 4 % 2 = c.ERR.toNat ∧
    (status c).toNat / 2 ^ 5 % 2 ^ 3 = (causeField c.ERR c.CAUSE).toNat := by
  have hcause := (causeField c.ERR c.CAUSE).isLt
  have herr := Bool.toNat_lt c.ERR
  have hvalid := Bool.toNat_lt (digestValid c)
  have hph := c.PH.code.isLt
  rw [toNat_status]
  omega

variable {F : Descriptor} (c : CoreState F)

theorem status_ph : (status c).extractLsb' 0 2 = c.PH.code := by
  apply BitVec.eq_of_toNat_eq
  simpa using (status_digits c).1

theorem status_ready : (status c).getLsbD 2 = true := by
  obtain ⟨-, hready, -⟩ := status_digits c
  rw [getLsbD_eq_decide, hready]
  rfl

theorem status_digestValid : (status c).getLsbD 3 = digestValid c := by
  obtain ⟨-, -, hvalid, -⟩ := status_digits c
  rw [getLsbD_eq_decide, hvalid]
  cases digestValid c <;> rfl

theorem status_err : (status c).getLsbD 4 = c.ERR := by
  obtain ⟨-, -, -, herr, -⟩ := status_digits c
  rw [getLsbD_eq_decide, herr]
  cases c.ERR <;> rfl

theorem status_cause : (status c).extractLsb' 5 3 = causeField c.ERR c.CAUSE := by
  obtain ⟨-, -, -, -, hcause⟩ := status_digits c
  apply BitVec.eq_of_toNat_eq
  rw [BitVec.extractLsb'_toNat, Nat.shiftRight_eq_div_pow, hcause]

theorem digestValid_eq_true_iff : digestValid c = true ↔ c.PH = .final ∧ c.ERR = false := by
  simp [digestValid]

/-- Where `ERR` and `CAUSE` agree the field is `CAUSE` itself: without a fault the cause is none, whose code is 0. -/
theorem causeField_of_agree {s : State} (h : FaultRegistersAgree s) :
    causeField s.core.ERR s.core.CAUSE = s.core.CAUSE.code := by
  cases herr : s.core.ERR with
  | true => rfl
  | false => rw [h.mp herr]; rfl

/-- Settles O45: the fields of the port, the `cause` field being `CAUSE` by the premise. -/
theorem statusPortFields : Obligations.StatusPortFields := by
  intro s hagree
  rw [status_cause, toNat_status, causeField_of_agree hagree, status_digestValid, digestValid_eq_true_iff]
  exact ⟨status_ph _, status_ready _, Iff.rfl, status_err _, rfl, rfl⟩

/-- Settles O34: with `ERR` set the `err` field is 1, the `cause` field is `CAUSE`, and the digest is not valid. -/
theorem faultEntryInvalidatesDigest : Obligations.FaultEntryInvalidatesDigest := by
  intro s cause
  refine ⟨rfl, status_err _, status_cause _, ?_⟩
  simp [digestValid]

/-- The port of `IDLE` without a fault (R39). -/
theorem statusWord_idle : statusWord .idle false .none = 0x04#8 := by decide

/-- Settles O38: the event leaves the reset values in the sequencer's registers, and the port is a function of them. -/
theorem resetEventGivesIdle : Obligations.ResetEventGivesIdle := fun F c rest n =>
  ⟨_, step_of_port_cons F c .reset rest n, rfl, rfl, rfl, statusWord_idle⟩

/-- Settles O39: the sequencer's registers hold their reset values, and the port is a function of them. -/
theorem resetStateIsIdle : Obligations.ResetStateIsIdle := fun _ => ⟨rfl, rfl, rfl, rfl, statusWord_idle⟩

end Sys2Proof.Machine
end

section
/-! The digest on the ports (10_state.md R29, 44_serialization.md R160 to R164): the digest value is a numeral in base
`2^w` whose digits are the words, and its hexadecimal digits are the characters of the digest string. -/

namespace Sys2Proof.Machine

variable {F : Descriptor}

theorem toNat_lt_of_mem_words {w : Nat} {xs : List (BitVec w)} : ∀ d ∈ xs.map BitVec.toNat, d < 2 ^ w := by
  intro d hd
  obtain ⟨x, -, rfl⟩ := List.mem_map.mp hd
  exact x.isLt

/-- The digest value is the numeral of the words, `H[0]` first. -/
theorem toNat_digestValue (F : Descriptor) (H : RegFile F.w F.nh) :
    (digestValue F H).toNat = numeral (2 ^ F.w) (H.toList.map BitVec.toNat) := by
  have hlt := numeral_lt (toNat_lt_of_mem_words (xs := H.toList))
  have hwidth : (2 ^ F.w) ^ (H.toList.map BitVec.toNat).length = 2 ^ F.dbits := by
    rw [List.length_map, Vector.length_toList, ← Nat.pow_mul, Nat.mul_comm, RawDescriptor.dbits]
  rw [hwidth] at hlt
  rw [← Nat.mod_eq_of_lt hlt, numeral, List.foldl_map, digestValue, BitVec.toNat_ofNat]

/-- Settles O46: word `i` is digit `i` of the numeral, and a slice of the port. -/
theorem digestPortCarriesRunningDigest : Obligations.DigestPortCarriesRunningDigest := by
  intro F c obs i hvalid hi
  have hdigit := numeral_digit (toNat_lt_of_mem_words (xs := c.H.toList)) (k := i) (by simpa using hi)
  rw [← toNat_digestValue] at hdigit
  apply BitVec.eq_of_toNat_eq
  rw [digestPort, if_pos hvalid, BitVec.extractLsb'_toNat, Nat.shiftRight_eq_div_pow, RegFile.get_of_lt _ hi,
    Nat.sub_right_comm, Nat.pow_mul]
  simpa using hdigit

/-- The hexadecimal numeral of `n` digits, the most significant first, leading zeros kept. -/
def hexNumeral (n v : Nat) : List Char := (List.range n).map fun j => hexDigit (v / 16 ^ (n - 1 - j) % 16)

/-- The string of a word is its numeral (R161). -/
theorem hexw_eq_hexNumeral (ws : Nat) {w : Nat} (x : BitVec w) : hexw ws x = hexNumeral (2 * ws) x.toNat := by
  refine List.map_congr_left fun j _ => ?_
  rw [BitVec.extractLsb'_toNat, Nat.shiftRight_eq_div_pow, Nat.pow_mul, Nat.sub_right_comm]

/-- A numeral is the numeral of its high digits, then that of its low digits. -/
theorem hexNumeral_append (m n v : Nat) {x : Nat} (hx : x < 16 ^ n) :
    hexNumeral (m + n) (v * 16 ^ n + x) = hexNumeral m v ++ hexNumeral n x := by
  have hhigh : (v * 16 ^ n + x) / 16 ^ n = v := by
    rw [Nat.mul_comm, Nat.mul_add_div (by positivity), Nat.div_eq_of_lt hx, Nat.add_zero]
  rw [hexNumeral, List.range_add, List.map_append, List.map_map]
  congr 1
  · refine List.map_congr_left fun j hj => ?_
    have hexp : m + n - 1 - j = n + (m - 1 - j) := by have := List.mem_range.mp hj; omega
    rw [hexp, Nat.pow_add, ← Nat.div_div_eq_div_mul, hhigh]
  · refine List.map_congr_left fun j hj => ?_
    have hexp : m + n - 1 - (m + j) = n - 1 - j := by omega
    have hsplit : 16 ^ n = 16 ^ (n - 1 - j) * (16 * 16 ^ j) := by
      rw [← Nat.pow_succ', ← Nat.pow_add]
      have := List.mem_range.mp hj
      congr 1
      omega
    have hdrop : v * 16 ^ n + x = 16 ^ (n - 1 - j) * (16 * (v * 16 ^ j)) + x := by rw [hsplit]; ring
    rw [Function.comp_apply, hexp, hdrop, Nat.mul_add_div (by positivity), Nat.mul_add_mod]

/-- The strings of words one after another are the numeral whose digits in base `2^w` are the words. -/
theorem flatMap_hexw {ws w : Nat} (hw : 2 ^ w = 16 ^ (2 * ws)) (xs : List (BitVec w)) :
    xs.flatMap (hexw ws) = hexNumeral (2 * ws * xs.length) (numeral (2 ^ w) (xs.map BitVec.toNat)) := by
  induction xs using List.reverseRecOn with
  | nil => rfl
  | append_singleton xs x ih =>
    have hx : x.toNat < 16 ^ (2 * ws) := hw ▸ x.isLt
    rw [List.flatMap_append, ih, List.map_append, List.map_singleton, numeral_concat, List.length_append,
      List.length_singleton, Nat.mul_succ, hw, hexNumeral_append _ _ _ hx, ← hw, List.flatMap_singleton,
      hexw_eq_hexNumeral]

/-- The digest string is the numeral of the digest port value (R162). -/
theorem hexstr_eq_hexNumeral (F : Descriptor) (H : RegFile F.w F.nh) :
    hexstr F H = hexNumeral F.dlen (digestValue F H).toNat := by
  have hw : 2 ^ F.w = 16 ^ (2 * F.ws) := by
    rw [RawDescriptor.w, ← Nat.pow_mul 2 4, ← Nat.mul_assoc]
  rw [hexstr, flatMap_hexw hw, toNat_digestValue, Vector.length_toList, RawDescriptor.dlen]

/-- Settles O48: the string is that numeral, digit by digit. -/
theorem digestStringIsPortNumeral : Obligations.DigestStringIsPortNumeral := by
  intro F H j hj
  rw [hexstr_eq_hexNumeral]
  simp [hexNumeral, List.getD, hj]

/-- The codes of the sixteen digits fit a byte (R164). -/
theorem toNat_charCode_hexDigit (v : Nat) : (charCode (hexDigit v)).toNat = (hexDigit v).toNat := by
  have hall : ∀ c ∈ ['0', '1', '2', '3', '4', '5', '6', '7', '8', '9', 'a', 'b', 'c', 'd', 'e', 'f'],
      (charCode c).toNat = c.toNat := by simp [charCode]
  exact hall _ (hexDigit_mem v)

/-- Settles O49: byte `j` of the port is digit `j` of the big-endian numeral of the codes. -/
theorem digestHexPortCarriesCodes : Obligations.DigestHexPortCarriesCodes := by
  intro F c obs j hvalid hj
  have hlen : ((hexstr F c.H).map charCode).length = F.dlen := by simp
  have hfit := beNat_lt ((hexstr F c.H).map charCode)
  have hbyte := beNat_digit (bytes := (hexstr F c.H).map charCode) (k := j) (by simpa using hj)
  rw [hlen] at hfit
  have hchar : ∃ v, hexDigit v = (hexstr F c.H)[j]'(by simpa using hj) :=
    exists_hexDigit_of_mem_hexstr (List.getElem_mem _)
  obtain ⟨v, hv⟩ := hchar
  rw [digestHexPort, if_pos hvalid, BitVec.extractLsb'_toNat, BitVec.toNat_ofNat, Nat.shiftRight_eq_div_pow,
    two_pow_eight_mul, two_pow_eight_mul, Nat.mod_eq_of_lt hfit, List.getD_eq_getElem _ _ (by simpa using hj), ← hv,
    ← toNat_charCode_hexDigit, hv]
  simpa using hbyte

end Sys2Proof.Machine
end

section
/-! Padding and segmentation (41_padding.md R111 to R116). -/

namespace Sys2Proof.Machine

variable (F : Descriptor)

/-! ### The zero count (R111, R112) -/

/-- The congruence of R111 has exactly one solution below `bs`. -/
theorem zero_congruence_iff {L z : Nat} (hz : z < F.bs) :
    (L + 1 + z) % F.bs = F.bs - F.lw ↔ z = (F.bs - F.lw + (F.bs - (L + 1) % F.bs)) % F.bs := by
  obtain ⟨h1, h2⟩ := F.wf_length
  have hr : (L + 1) % F.bs < F.bs := Nat.mod_lt _ F.bs_pos
  rw [Nat.add_mod, Nat.mod_eq_of_lt hz]
  generalize (L + 1) % F.bs = r at *
  have hsum : (r + z) % F.bs = if r + z < F.bs then r + z else r + z - F.bs := by
    split_ifs with h
    · exact Nat.mod_eq_of_lt h
    · rw [Nat.mod_eq_sub_mod (by omega), Nat.mod_eq_of_lt (by omega)]
  have hsol : (F.bs - F.lw + (F.bs - r)) % F.bs =
      if F.bs - F.lw + (F.bs - r) < F.bs then F.bs - F.lw + (F.bs - r) else F.bs - F.lw + (F.bs - r) - F.bs := by
    split_ifs with h
    · exact Nat.mod_eq_of_lt h
    · rw [Nat.mod_eq_sub_mod (by omega), Nat.mod_eq_of_lt (by omega)]
  rw [hsum, hsol]
  split_ifs <;> omega

/-- The zero count is below `bs` and solves the congruence (R112). -/
theorem zeroCount_spec (L : Nat) : zeroCount F.toRawDescriptor L < F.bs ∧
    (L + 1 + zeroCount F.toRawDescriptor L) % F.bs = F.bs - F.lw := by
  have hlt : (F.bs - F.lw + (F.bs - (L + 1) % F.bs)) % F.bs < F.bs := Nat.mod_lt _ F.bs_pos
  have hsol := (zero_congruence_iff F hlt).mpr rfl
  cases hfind : (List.range F.bs).find? fun z => (L + 1 + z) % F.bs == F.bs - F.lw with
  | none => simpa [hsol] using List.find?_eq_none.mp hfind _ (List.mem_range.mpr hlt)
  | some z =>
    rw [zeroCount, hfind]
    exact ⟨List.mem_range.mp (List.mem_of_find?_eq_some hfind), by simpa using List.find?_some hfind⟩

/-- A solution below `bs` is the zero count. -/
theorem zeroCount_eq {L z : Nat} (hz : z < F.bs) (h : (L + 1 + z) % F.bs = F.bs - F.lw) :
    zeroCount F.toRawDescriptor L = z := by
  obtain ⟨hlt, hsol⟩ := zeroCount_spec F L
  rw [(zero_congruence_iff F hlt).mp hsol, (zero_congruence_iff F hz).mp h]

/-- Settles O50: a solution `z` has `z mod bs` for a solution below `bs`, which is the zero count; and the closed form
differs from the zero count by the multiple of `bs` in the congruence. -/
theorem zeroCountIsLeastAndClosedForm : Obligations.ZeroCountIsLeastAndClosedForm := by
  intro F L
  obtain ⟨hlt, hsol⟩ := zeroCount_spec F L
  refine ⟨hsol, fun z hz => ?least, ?closed⟩
  case least =>
    have hmod : (L + 1 + z % F.bs) % F.bs = F.bs - F.lw := by rwa [Nat.add_mod_mod]
    rw [zeroCount_eq F (Nat.mod_lt z F.bs_pos) hmod]
    exact Nat.mod_le z F.bs
  case closed =>
    obtain ⟨-, hfit⟩ := F.wf_length
    have hdiv := Nat.div_add_mod (L + 1 + zeroCount F.toRawDescriptor L) F.bs
    rw [hsol] at hdiv
    generalize (L + 1 + zeroCount F.toRawDescriptor L) / F.bs = q at hdiv
    have hform : (F.bs : Int) - F.lw - 1 - L = zeroCount F.toRawDescriptor L - F.bs * q := by
      have := congrArg (Nat.cast (R := Int)) hdiv
      push_cast [hfit] at this
      linarith
    rw [hform, Int.sub_mul_emod_self_left, Int.emod_eq_of_lt (by positivity) (by exact_mod_cast hlt)]

/-! ### The padded length (R113) -/

/-- The padded message fills its blocks. -/
theorem length_fields_fill_blocks (L : Nat) :
    L + 1 + zeroCount F.toRawDescriptor L + F.lw = F.bs * ((L + F.lw) / F.bs + 1) := by
  obtain ⟨h1, hfit⟩ := F.wf_length
  obtain ⟨hlt, hsol⟩ := zeroCount_spec F L
  have hdiv := Nat.div_add_mod (L + 1 + zeroCount F.toRawDescriptor L) F.bs
  rw [hsol] at hdiv
  generalize (L + 1 + zeroCount F.toRawDescriptor L) / F.bs = q at hdiv
  have hq : (L + F.lw) / F.bs = q := by
    rw [Nat.div_eq_iff F.bs_pos, Nat.mul_comm q]
    omega
  rw [hq, Nat.mul_succ]
  omega

theorem length_pad (M : List Byte) : (pad F.toRawDescriptor M).length =
    M.length + 1 + zeroCount F.toRawDescriptor M.length + F.lw := by
  simp [pad]; omega

theorem length_pad_eq_mul (M : List Byte) : (pad F.toRawDescriptor M).length =
    F.bs * ((M.length + F.lw) / F.bs + 1) := by
  rw [length_pad, length_fields_fill_blocks]

theorem blockCount_eq (M : List Byte) : blockCount F.toRawDescriptor M = (M.length + F.lw) / F.bs + 1 := by
  rw [blockCount, length_pad_eq_mul, Nat.mul_div_cancel_left _ F.bs_pos]

/-- Settles O51: the four parts of the padded message fill whole blocks. -/
theorem paddedLengthAndBlockCount : Obligations.PaddedLengthAndBlockCount := fun F M =>
  ⟨length_pad F M, by rw [length_pad_eq_mul, Nat.mul_mod_right], blockCount_eq F M⟩

/-! ### Segmentation (R116) -/

/-- The first `n` pieces of `b` entries are the first `n*b` entries. -/
theorem flatten_pieces {α : Type} (xs : List α) (b n : Nat) :
    ((List.range n).map fun j => (xs.drop (j * b)).take b).flatten = xs.take (n * b) := by
  induction n with
  | zero => simp
  | succ n ih => rw [List.range_succ, List.map_append, List.flatten_append, ih, Nat.succ_mul, List.take_add]; simp

/-- Settles O52: the pieces cover the padded message, whose length is a whole number of blocks. -/
theorem segmentationTilesPaddedMessage : Obligations.SegmentationTilesPaddedMessage := by
  intro F M
  have hlen : (pad F.toRawDescriptor M).length = blockCount F.toRawDescriptor M * F.bs := by
    rw [length_pad_eq_mul, blockCount_eq, Nat.mul_comm]
  refine ⟨?_, by simp [padBlocks], fun block hblock => ?_⟩
  · rw [padBlocks, flatten_pieces, List.take_of_length_le hlen.le]
  · obtain ⟨j, hj, rfl⟩ := List.mem_map.mp hblock
    have hfit : (j + 1) * F.bs ≤ blockCount F.toRawDescriptor M * F.bs :=
      Nat.mul_le_mul_right _ (List.mem_range.mp hj)
    rw [Nat.succ_mul] at hfit
    rw [List.length_take_of_le]
    simp
    omega

/-! ### The final blocks (R115) -/

/-- The message is its full blocks and the bytes left over. -/
theorem full_blocks_eq (L : Nat) : L / F.bs * F.bs = L - L % F.bs := by
  have hdiv := Nat.div_add_mod L F.bs
  rw [Nat.mul_comm]
  omega

/-- With room for the `0x80` byte and the length field, one more block. -/
theorem one_final_block {L : Nat} (h : L % F.bs + F.lw + 1 ≤ F.bs) :
    zeroCount F.toRawDescriptor L = F.bs - F.lw - 1 - L % F.bs ∧ (L + F.lw) / F.bs = L / F.bs := by
  obtain ⟨h1, -⟩ := F.wf_length
  have hdiv := Nat.div_add_mod L F.bs
  constructor
  · have hsum : L + 1 + (F.bs - F.lw - 1 - L % F.bs) = F.bs * (L / F.bs) + (F.bs - F.lw) := by omega
    exact zeroCount_eq F (by omega) (by rw [hsum, Nat.mul_add_mod, Nat.mod_eq_of_lt (by omega)])
  · rw [Nat.div_eq_iff F.bs_pos, Nat.mul_comm (L / F.bs)]
    omega

/-- Without it, two. -/
theorem two_final_blocks {L : Nat} (h : F.bs < L % F.bs + F.lw + 1) :
    zeroCount F.toRawDescriptor L = F.bs - L % F.bs - 1 + (F.bs - F.lw) ∧ (L + F.lw) / F.bs = L / F.bs + 1 := by
  obtain ⟨h1, hfit⟩ := F.wf_length
  have hr : L % F.bs < F.bs := Nat.mod_lt _ F.bs_pos
  have hdiv := Nat.div_add_mod L F.bs
  constructor
  · have hsum : L + 1 + (F.bs - L % F.bs - 1 + (F.bs - F.lw)) = F.bs * (L / F.bs + 1) + (F.bs - F.lw) := by
      rw [Nat.mul_succ]; omega
    exact zeroCount_eq F (by omega) (by rw [hsum, Nat.mul_add_mod, Nat.mod_eq_of_lt (by omega)])
  · rw [Nat.div_eq_iff F.bs_pos, Nat.mul_comm (L / F.bs + 1), Nat.mul_succ]
    omega

/-- What the padded message holds behind the last full block of the message. -/
theorem drop_pad (M : List Byte) : (pad F.toRawDescriptor M).drop (M.length / F.bs * F.bs) =
    M.drop (M.length - M.length % F.bs) ++ [0x80#8] ++
      List.replicate (zeroCount F.toRawDescriptor M.length) 0x00#8 ++ lengthField F.toRawDescriptor M.length := by
  simp only [pad, List.append_assoc]
  rw [full_blocks_eq, List.drop_append_of_le_length (Nat.sub_le _ _)]

/-- Block `n` of the padded message (R116). -/
def paddedBlock (F : RawDescriptor) (M : List Byte) (n : Nat) : List Byte := ((pad F M).drop (n * F.bs)).take F.bs

/-- The blocks but the last, and the last. -/
theorem padBlocks_eq_concat (M : List Byte) {n : Nat} (hn : (M.length + F.lw) / F.bs = n) :
    padBlocks F.toRawDescriptor M =
      (List.range n).map (paddedBlock F.toRawDescriptor M) ++ [paddedBlock F.toRawDescriptor M n] := by
  rw [padBlocks, blockCount_eq, hn, List.range_succ, List.map_append]
  rfl

/-- Settles O53. Behind the full blocks of the message come the left-over bytes, `0x80`, the zeros and the length field;
in the first case they fill one block, in the second two, with the border among the zeros. -/
theorem finalBlocksOfPaddedMessage : Obligations.FinalBlocksOfPaddedMessage := by
  intro F M r rest
  have hr : r < F.bs := Nat.mod_lt _ F.bs_pos
  have hrest : rest.length = r := by
    have := Nat.mod_le M.length F.bs
    simp [rest, r]
    omega
  have htail := drop_pad F M
  refine ⟨fun hone => ?one, fun htwo => ?two⟩
  case one =>
    obtain ⟨hz, hn⟩ := one_final_block F hone
    rw [padBlocks_eq_concat F M hn, List.getLast?_concat, paddedBlock, htail, hz, List.take_of_length_le]
    simp
    omega
  case two =>
    obtain ⟨hz, hn⟩ := two_final_blocks F htwo
    have hcut : (pad F.toRawDescriptor M).drop (M.length / F.bs * F.bs) =
        (rest ++ [0x80#8] ++ List.replicate (F.bs - r - 1) 0x00#8) ++
          (List.replicate (F.bs - F.lw) 0x00#8 ++ lengthField F.toRawDescriptor M.length) := by
      rw [htail, hz, List.replicate_add]
      simp only [rest, r, List.append_assoc]
    have hfirst : (rest ++ [0x80#8] ++ List.replicate (F.bs - r - 1) 0x00#8).length = F.bs := by
      simp [hrest]
      omega
    have hlast : paddedBlock F.toRawDescriptor M (M.length / F.bs + 1) =
        List.replicate (F.bs - F.lw) 0x00#8 ++ lengthField F.toRawDescriptor M.length := by
      rw [paddedBlock, Nat.succ_mul, ← List.drop_drop, hcut, List.drop_left' hfirst, List.take_of_length_le]
      have := F.wf_length
      simp
      omega
    have hprev : paddedBlock F.toRawDescriptor M (M.length / F.bs) =
        rest ++ [0x80#8] ++ List.replicate (F.bs - r - 1) 0x00#8 := by
      rw [paddedBlock, hcut, List.take_left' hfirst]
    rw [padBlocks_eq_concat F M hn, List.getLast?_concat, List.dropLast_concat, List.range_succ, List.map_append,
      List.map_singleton, List.getLast?_concat, hlast, hprev]
    exact ⟨rfl, rfl⟩

end Sys2Proof.Machine
end

section
/-! Whole invocations: the expansion of `DIGEST` (45_commands.md R178) executed command by command and presented at the
command port. -/

namespace Sys2Proof.Machine

/-- One step of a run, for any machine. -/
theorem coreRun_succ_of_step {M : Host.Core} {s s' : M.State} (h : M.step s = .next s') (k : Nat) :
    M.run (k + 1) s = M.run k s' := by
  rw [Host.Core.run, h]

theorem run_succ_of_step {s s' : State} (h : step s = .next s') (k : Nat) : run (k + 1) s = run k s' :=
  coreRun_succ_of_step (M := Sys2Proof.core) h k

theorem execAll_cons_of_exec {i : Instr} {s s' : State} (h : exec i s = .next s') (rest : List Instr) :
    execAll (i :: rest) s = execAll rest s' := by
  rw [execAll, h]

/-! ### Commands in a row -/

variable {F : Descriptor}

/-- Commands the port can present, executed in a row, complete, and the same commands presented at the port have the
same effect on the engine in one step each. -/
theorem execAll_of_wellFormed {is : List Instr} (h : ∀ i ∈ is, i.wellFormed F.bs = true) (c : CoreState F) :
    ∃ c' : CoreState F, (∀ port n, execAll is ⟨F, c, port, n⟩ = .next ⟨F, c', port, n⟩) ∧
      ∀ rest n, run is.length ⟨F, c, is.map (fun i => .command (encode F.bs i)) ++ rest, n⟩ =
        .next ⟨F, c', rest, n⟩ := by
  induction is generalizing c with
  | nil => exact ⟨c, fun _ _ => rfl, fun _ _ => rfl⟩
  | cons i is ih =>
    have hi : i.wellFormed F.bs = true := h i List.mem_cons_self
    obtain ⟨c₁, hexec⟩ := exec_of_wellFormed c hi
    obtain ⟨c', hall, hrun⟩ := ih (fun j hj => h j (List.mem_cons_of_mem i hj)) c₁
    refine ⟨c', fun port n => ?_, fun rest n => ?_⟩
    · rw [execAll_cons_of_exec (hexec port n), hall]
    · rw [List.map_cons, List.cons_append, List.length_cons, run_succ_of_step ?_, hrun]
      rw [stepExecutesDecodedCommand, decodeOfEncode F.bs i hi, hexec]

/-! ### The block commands of an invocation -/

theorem blockCommands_cons_cons (b b' : List Byte) (blocks : List (List Byte)) :
    blockCommands (b :: b' :: blocks) = .next b :: blockCommands (b' :: blocks) := by
  simp [blockCommands]

theorem blockCommands_concat (blocks : List (List Byte)) (b : List Byte) :
    blockCommands (blocks ++ [b]) = blocks.map .next ++ [.nextl b] := by
  simp [blockCommands]

theorem length_blockCommands (blocks : List (List Byte)) : (blockCommands blocks).length = blocks.length := by
  induction blocks using List.reverseRecOn with
  | nil => rfl
  | append_singleton blocks b => simp [blockCommands_concat]

theorem wellFormed_blockCommands {bs : Nat} {blocks : List (List Byte)} (h : ∀ b ∈ blocks, b.length = bs) :
    ∀ i ∈ blockCommands blocks, i.wellFormed bs = true := by
  induction blocks using List.reverseRecOn with
  | nil => simp [blockCommands]
  | append_singleton blocks b =>
    simp only [blockCommands_concat, List.mem_append, List.mem_map, List.mem_singleton]
    rintro i (⟨b', hb', rfl⟩ | rfl)
    · simp [Instr.wellFormed, h b' (by simp [hb'])]
    · simp [Instr.wellFormed, h b (by simp)]

theorem chain_cons (h : RegFile F.w F.nh) (b : List Byte) (blocks : List (List Byte)) :
    chain F h (b :: blocks) = chain F (compress F h b) blocks := rfl

theorem chain_concat (h : RegFile F.w F.nh) (blocks : List (List Byte)) (b : List Byte) :
    chain F h (blocks ++ [b]) = compress F (chain F h blocks) b := by
  simp [chain]

/-- The block commands of an invocation chain `compress` over the blocks and end in phase `FINAL`. -/
theorem execAll_blockCommands {blocks : List (List Byte)} (hne : blocks ≠ []) (hwidth : ∀ b ∈ blocks, b.length = F.bs)
    (c : CoreState F) (port : List (PortEvent F.bs)) (n : Nat) (herr : c.ERR = false)
    (hphase : c.PH = .pending ∨ c.PH = .compressed) :
    ∃ c' : CoreState F, execAll (blockCommands blocks) ⟨F, c, port, n⟩ = .next ⟨F, c', port, n⟩ ∧
      c'.PH = .final ∧ c'.ERR = false ∧ c'.CAUSE = c.CAUSE ∧ c'.H = chain F c.H blocks := by
  induction blocks generalizing c with
  | nil => exact absurd rfl hne
  | cons b blocks ih =>
    have hb : b.length = F.bs := hwidth b List.mem_cons_self
    cases blocks with
    | nil =>
      have hexec := nextlCompressesLastBlock ⟨F, c, port, n⟩ b herr hphase hb
      exact ⟨_, execAll_cons_of_exec hexec [], rfl, herr, rfl, rfl⟩
    | cons b' blocks =>
      have hexec := nextCompressesBlock ⟨F, c, port, n⟩ b herr hphase hb
      obtain ⟨c', hall, hrest⟩ := ih (List.cons_ne_nil _ _) (fun d hd => hwidth d (List.mem_cons_of_mem b hd))
        (afterBlock .compressed b ⟨F, c, port, n⟩).core herr (.inr rfl)
      rw [blockCommands_cons_cons, execAll_cons_of_exec hexec, chain_cons]
      exact ⟨c', hall, hrest⟩

/-! ### `DIGEST` -/

variable (F) in
theorem padBlocks_ne_nil (M : List Byte) : padBlocks F.toRawDescriptor M ≠ [] := by
  rw [padBlocks_eq_concat F M rfl]
  exact List.append_ne_nil_of_right_ne_nil _ (List.cons_ne_nil _ _)

variable (F) in
/-- The blocks of the padded message have the port's width. -/
theorem length_of_mem_padBlocks (M : List Byte) : ∀ b ∈ padBlocks F.toRawDescriptor M, b.length = F.bs :=
  (segmentationTilesPaddedMessage F M).2.2

/-- The port of `FINAL` without a fault (R178). -/
theorem statusWord_final : statusWord .final false .none = 0x0F#8 := by decide

/-- Settles O55: `INIT` starts the invocation from any state, and the block commands chain `compress` from `IV`. The
premise of U1 is not used: `PAD` is total. -/
theorem digestExpansionComputesDigest : Obligations.DigestExpansionComputesDigest := by
  rintro ⟨F, c, port, n⟩ M -
  obtain ⟨c', hall, hPH, hERR, hCAUSE, hH⟩ := execAll_blockCommands (padBlocks_ne_nil F M)
    (length_of_mem_padBlocks F M) (afterInit ⟨F, c, port, n⟩).core port n rfl (.inl rfl)
  have hvalid : digestValid c' = true := (digestValid_eq_true_iff c').mpr ⟨hPH, hERR⟩
  refine ⟨c', (execAll_cons_of_exec (exec_init _) _).trans hall, hPH, hERR, hCAUSE, ?_, hH, ?_⟩
  · rw [status, hPH, hERR, hCAUSE]
    exact statusWord_final
  · rw [ser, if_pos hvalid, hH]
    rfl

theorem wellFormed_digestCommands (M : List Byte) :
    ∀ i ∈ digestCommands F.toRawDescriptor M, i.wellFormed F.bs = true := by
  rintro i (_ | ⟨_, hi⟩)
  · rfl
  · exact wellFormed_blockCommands (length_of_mem_padBlocks F M) i hi

theorem length_digestCommands (M : List Byte) :
    (digestCommands F.toRawDescriptor M).length = (M.length + F.lw) / F.bs + 1 + 1 := by
  rw [digestCommands, List.length_cons, length_blockCommands, (segmentationTilesPaddedMessage F M).2.1, blockCount_eq]

/-- Settles O56: the words of the expansion, one a step, have the effect of the expansion itself. -/
theorem digestOnCommandPort : Obligations.DigestOnCommandPort := by
  intro F c M rest n hfits
  obtain ⟨c', hall, hrun⟩ := execAll_of_wellFormed (wellFormed_digestCommands M) c
  obtain ⟨d, hdigest, hPH, hERR, -, -, -, hser⟩ := digestExpansionComputesDigest ⟨F, c, rest, n⟩ M hfits
  have hsame : c' = d := by simpa using (hall rest n).symm.trans hdigest
  subst hsame
  exact ⟨c', length_digestCommands M ▸ hrun rest n, (digestValid_eq_true_iff c').mpr ⟨hPH, hERR⟩, hser⟩

end Sys2Proof.Machine
end

section
/-! Where a valid digest comes from (60_exceptions.md R202): what the engine's registers say about the events so far. -/

namespace Sys2Proof.Machine

variable {F : Descriptor}

/-- The events bring an `INIT`, after which there is no reset and the commands other than `NOP` are `commands`. -/
def SinceInit (F : Descriptor) (events : List (PortEvent F.bs)) (commands : List Instr) : Prop :=
  ∃ before init after, events = before ++ .command init :: after ∧ decodeFor F init = .init ∧ .reset ∉ after ∧
    effectiveCommands F after = commands

theorem endsInInvocation_iff {events : List (PortEvent F.bs)} {blocks : List (List Byte)} :
    EndsInInvocation F events blocks ↔ blocks ≠ [] ∧ SinceInit F events (blockCommands blocks) := Iff.rfl

theorem SinceInit.of_init (events : List (PortEvent F.bs)) {cmd : BitVec (cmdWidth F.bs)}
    (h : decodeFor F cmd = .init) : SinceInit F (events ++ [.command cmd]) [] :=
  ⟨events, cmd, [], rfl, h, List.not_mem_nil, rfl⟩

theorem SinceInit.concat {events : List (PortEvent F.bs)} {commands : List Instr} (h : SinceInit F events commands)
    {e : PortEvent F.bs} (he : e ≠ .reset) :
    SinceInit F (events ++ [e]) (commands ++ effectiveCommands F [e]) := by
  obtain ⟨before, init, after, rfl, hinit, hreset, rfl⟩ := h
  refine ⟨before, init, after ++ [e], by simp, hinit, ?_, ?_⟩
  · simpa [hreset] using he.symm
  · rw [effectiveCommands, List.filterMap_append]
    rfl

theorem effectiveCommands_idle : effectiveCommands F [.idle] = [] := rfl

theorem effectiveCommands_nop {cmd : BitVec (cmdWidth F.bs)} (h : decodeFor F cmd = .nop) :
    effectiveCommands F [.command cmd] = [] := by
  simp [effectiveCommands, h]

theorem effectiveCommands_of_ne_nop {cmd : BitVec (cmdWidth F.bs)} (h : decodeFor F cmd ≠ .nop) :
    effectiveCommands F [.command cmd] = [decodeFor F cmd] := by
  simp [effectiveCommands, h]

/-- The commands since the last `INIT` that lead to each phase, the running digest being chained over `blocks`. -/
def phaseCommands (blocks : List (List Byte)) : Phase → List Instr
  | .idle => []
  | .pending => blocks.map .next
  | .compressed => blocks.map .next
  | .final => blockCommands blocks

/-- What the registers say about the events so far: without a fault, outside `IDLE`, the phase tells the commands since
the last `INIT` and `H` is chained over their blocks, of which `FINAL` has had at least one. -/
def Traced (F : Descriptor) (events : List (PortEvent F.bs)) (c : CoreState F) : Prop :=
  c.ERR = false → c.PH ≠ .idle → ∃ blocks, SinceInit F events (phaseCommands blocks c.PH) ∧
    c.H = chain F (ivFile F) blocks ∧ (c.PH = .final → blocks ≠ [])

theorem Traced.of_faulted {events : List (PortEvent F.bs)} {c : CoreState F} (herr : c.ERR = true) :
    Traced F events c := fun hsound => absurd (herr.symm.trans hsound) (by decide)

theorem Traced.of_idle {events : List (PortEvent F.bs)} {c : CoreState F} (hphase : c.PH = .idle) :
    Traced F events c := fun _ hne => absurd hphase hne

/-- An event that brings no command and is no reset. -/
theorem Traced.concat_nothing {events : List (PortEvent F.bs)} {c : CoreState F} (h : Traced F events c)
    {e : PortEvent F.bs} (he : e ≠ .reset) (hnone : effectiveCommands F [e] = []) : Traced F (events ++ [e]) c := by
  intro herr hphase
  obtain ⟨blocks, hsince, hH⟩ := h herr hphase
  refine ⟨blocks, ?_, hH⟩
  simpa [hnone] using hsince.concat he

/-- A block command adds its block. -/
theorem phaseCommands_concat {i : Instr} {block : List Byte} {after before : Phase} (hi : BlockCommand i block after)
    (hbefore : before = .pending ∨ before = .compressed) (blocks : List (List Byte)) :
    phaseCommands blocks before ++ [i] = phaseCommands (blocks ++ [block]) after := by
  have hopen : phaseCommands blocks before = blocks.map .next := by rcases hbefore with rfl | rfl <;> rfl
  rw [hopen]
  cases hi
  · simp [phaseCommands]
  · rw [phaseCommands, blockCommands_concat]

/-- A compressed block. -/
theorem Traced.concat_block {events : List (PortEvent F.bs)} {c : CoreState F} (h : Traced F events c)
    {cmd : BitVec (cmdWidth F.bs)} {block : List Byte} {after : Phase}
    (hi : BlockCommand (decodeFor F cmd) block after) (herr : c.ERR = false)
    (hphase : c.PH = .pending ∨ c.PH = .compressed) (port : List (PortEvent F.bs)) (n : Nat) :
    Traced F (events ++ [.command cmd]) (afterBlock after block ⟨F, c, port, n⟩).core := by
  intro _ _
  obtain ⟨blocks, hsince, hH, -⟩ := h herr (by rcases hphase with h | h <;> simp [h])
  have hnop : decodeFor F cmd ≠ .nop := by intro hnop; rw [hnop] at hi; cases hi
  refine ⟨blocks ++ [block], ?_, ?_, fun _ => by simp⟩
  · rw [afterBlock_PH, ← phaseCommands_concat hi hphase, ← effectiveCommands_of_ne_nop hnop]
    exact hsince.concat (by simp)
  · rw [chain_concat, ← hH]
    rfl

/-- Every step keeps it. -/
theorem Traced.step {events : List (PortEvent F.bs)} {c c' : CoreState F} (h : Traced F events c) {e : PortEvent F.bs}
    {rest : List (PortEvent F.bs)} {n n' : Nat} (hstep : step ⟨F, c, e :: rest, n⟩ = .next ⟨F, c', rest, n'⟩) :
    Traced F (events ++ [e]) c' := by
  cases StepEffect.of_step hstep with
  | idle => exact h.concat_nothing (by simp) effectiveCommands_idle
  | reset => exact .of_idle rfl
  | @command _ _ cmd _ _ _ heffect =>
    generalize hi : decode F.bs cmd = i at heffect
    cases heffect with
    | nothing _ hskip =>
      rcases hskip with rfl | herr
      · exact h.concat_nothing (by simp) (effectiveCommands_nop hi)
      · exact .of_faulted herr
    | started => exact fun _ _ => ⟨[], .of_init events hi, rfl, by simp⟩
    | illegal => exact .of_faulted rfl
    | outOfPhase => exact .of_faulted rfl
    | compressed hblock herr hphase _ =>
      subst hi
      exact h.concat_block hblock herr hphase rest n

/-- So it holds after a run of any events. -/
theorem Traced.run {events done : List (PortEvent F.bs)} {c c' : CoreState F} {n n' : Nat} (h : Traced F done c)
    (hrun : run events.length ⟨F, c, events, n⟩ = .next ⟨F, c', [], n'⟩) : Traced F (done ++ events) c' := by
  induction events generalizing done c n with
  | nil =>
    cases hrun
    simpa using h
  | cons e events ih =>
    obtain ⟨c₁, n₁, hstep⟩ := exists_step F c e events n
    rw [List.length_cons, run_succ_of_step hstep] at hrun
    simpa using ih (h.step hstep) hrun

/-- Settles O57: a state in `IDLE` claims nothing about the past, and in `FINAL` without a fault the claim is the
statement. -/
theorem validDigestComesFromInvocation : Obligations.ValidDigestComesFromInvocation := by
  intro F c c' events n n' hidle hrun hvalid
  obtain ⟨hPH, hERR⟩ := (digestValid_eq_true_iff c').mp hvalid
  obtain ⟨blocks, hsince, hH, hne⟩ := (Traced.of_idle (events := []) hidle).run hrun hERR (by simp [hPH])
  rw [hPH] at hsince
  exact ⟨blocks, endsInInvocation_iff.mpr ⟨hne hPH, hsince⟩, hH⟩

end Sys2Proof.Machine
end

section
/-! Construction (00_scope.md R8 to R10, 60_exceptions.md R190 to R199) and several engines side by side (R204). -/

namespace Sys2Proof.Machine

/-! ### Construction -/

theorem wfDocument_iff (F : RawDescriptor) : F.wfDocument = true ↔
    F.bs % F.ws = 0 ∧ F.bs / F.ws ≤ F.nr ∧ F.IV.length = F.nh ∧ F.K.length = F.nk ∧
      (∀ v ∈ F.IV, v < 2 ^ (8 * F.ws)) ∧ (∀ v ∈ F.K, v < 2 ^ (8 * F.ws)) := by
  simp only [RawDescriptor.wfDocument, Bool.and_eq_true, beq_iff_eq, decide_eq_true_eq, List.all_eq_true, and_assoc]
  rfl

theorem wfLength_iff (F : RawDescriptor) : F.wfLength = true ↔ 1 ≤ F.lw ∧ F.lw ≤ F.bs := by
  simp [RawDescriptor.wfLength]

theorem wfSha1_iff (F : RawDescriptor) : F.wfSha1 = true ↔
    F.ws = 4 ∧ F.nh = 5 ∧ F.bs / F.ws = 16 ∧ F.bs = 64 ∧ F.nr ≤ 80 ∧ (F.nr - 1) / 20 + 1 ≤ F.nk := by
  simp only [RawDescriptor.wfSha1, Bool.and_eq_true, beq_iff_eq, decide_eq_true_eq, and_assoc]
  rfl

theorem wfSha2_iff (F : RawDescriptor) : F.wfSha2 = true ↔
    F.ws = 8 ∧ F.nh = 8 ∧ 16 ≤ F.bs / F.ws ∧ F.nr ≤ F.nk := by
  simp only [RawDescriptor.wfSha2, Bool.and_eq_true, beq_iff_eq, decide_eq_true_eq, and_assoc]
  rfl

/-- Settles O58: the three parts of the check, of which the last is the one of the descriptor's family. -/
theorem wellFormedExactlyTheConditions : Obligations.WellFormedExactlyTheConditions := by
  intro F
  rw [RawDescriptor.wellFormed, Bool.and_eq_true, Bool.and_eq_true, wfDocument_iff, wfLength_iff, and_assoc]
  cases hfam : F.fam with
  | sha1 => simp only [wfSha1_iff, reduceCtorEq, false_implies, true_implies, and_true]
  | sha2_64 => simp only [wfSha2_iff, reduceCtorEq, false_implies, true_implies, true_and]

/-- Settles O59: the selector is looked at first, then the two conditions on the descriptor together. -/
theorem constructionChecksFamilyFirst : Obligations.ConstructionChecksFamilyFirst := by
  intro sel F
  refine ⟨fun hsel => ?_, fun fam hsel => ⟨fun hF => ⟨⟨F, hF.2⟩, ?_, rfl⟩, fun hF => ?_⟩⟩
  · rw [construct, hsel]
  · rw [construct, hsel]
    exact dif_pos hF
  · rw [construct, hsel]
    exact dif_neg hF

/-! ### Engines side by side -/

/-- A step of engine `i` is a step of its state, and every other engine stands still. -/
theorem stepInstance_cases {fabric fabric' : Fabric} {i : Nat} (h : stepInstance fabric i = .next fabric') :
    fabric[i]? = none ∧ fabric' = fabric ∨
      ∃ s s', fabric[i]? = some s ∧ step s = .next s' ∧ fabric' = fabric.set i s' := by
  rw [stepInstance] at h
  split at h
  · next hnone => exact .inl ⟨hnone, by simpa using h.symm⟩
  · next s hs =>
    obtain ⟨s', hstep⟩ := everyStepHasNextState s
    rw [hstep] at h
    exact .inr ⟨s, s', hs, hstep, by simpa using h.symm⟩

/-- The first step of an interleaving. -/
theorem runInstances_cons_cases {fabric fabric' : Fabric} {i : Nat} {order : List Nat}
    (h : runInstances (i :: order) fabric = .next fabric') :
    ∃ fabric₁, stepInstance fabric i = .next fabric₁ ∧ runInstances order fabric₁ = .next fabric' := by
  rw [runInstances] at h
  split at h
  · next fabric₁ hstep => exact ⟨fabric₁, hstep, h⟩
  · cases h
  · cases h

/-- Settles O60, by induction on the interleaving: a step of engine `j` is one of the counted steps, a step of another
engine does not touch `j`. -/
theorem instancesDoNotInterfere : Obligations.InstancesDoNotInterfere := by
  intro order
  induction order with
  | nil =>
    intro fabric fabric' h j s hs
    cases h
    exact ⟨s, hs, rfl⟩
  | cons i order ih =>
    intro fabric fabric' h j s hs
    obtain ⟨fabric₁, hfirst, hrest⟩ := runInstances_cons_cases h
    by_cases hij : i = j
    · subst hij
      rcases stepInstance_cases hfirst with ⟨hnone, -⟩ | ⟨s₀, s₁, hs₀, hstep, rfl⟩
      · rw [hnone] at hs; cases hs
      · obtain rfl : s₀ = s := by simpa [hs] using hs₀.symm
        have hlt : i < fabric.length := (List.getElem?_eq_some_iff.mp hs).1
        rw [List.count_cons_self, run_succ_of_step hstep]
        exact ih _ _ hrest i s₁ (by simp [hlt])
    · have hs₁ : fabric₁[j]? = some s := by
        rcases stepInstance_cases hfirst with ⟨-, rfl⟩ | ⟨_, _, -, -, rfl⟩
        · exact hs
        · rw [List.getElem?_set_ne hij, hs]
      rw [List.count_cons_of_ne hij]
      exact ih _ _ hrest j s hs₁

end Sys2Proof.Machine
end

section
/-! The lines of 30_encoding.md R76: a line's text is one word, or a mnemonic and a hexadecimal numeral, and
reading takes it apart again. -/

namespace Sys2Proof.Machine

/-! ### Hexadecimal numerals -/

theorem hexValue_hexDigit {v : Nat} (h : v < 16) : hexValue (hexDigit v) = some v := by
  interval_cases v <;> rfl

theorem parseHex_blockHex (block : List Byte) : parseHex (blockHex block) = some block := by
  induction block with
  | nil => rfl
  | cons b block ih =>
    have hhigh : hexValue (hexDigit (b.toNat / 16)) = some (b.toNat / 16) := hexValue_hexDigit (by omega)
    have hlow : hexValue (hexDigit (b.toNat % 16)) = some (b.toNat % 16) := hexValue_hexDigit (by omega)
    have hbyte : BitVec.ofNat 8 (16 * (b.toNat / 16) + b.toNat % 16) = b := by
      rw [Nat.div_add_mod, BitVec.ofNat_toNat, BitVec.setWidth_eq]
    rw [blockHex] at ih
    simp only [blockHex, List.flatMap_cons, byteHex, List.cons_append, List.nil_append, parseHex, hhigh, hlow, ih, hbyte]

/-! ### Words of a line -/

/-- A word of a line: not empty, and without the space that ends a word and the sign that starts a comment. -/
def IsWord (m : List Char) : Prop := m ≠ [] ∧ ' ' ∉ m ∧ ';' ∉ m

/-- A numeral has no other characters than the sixteen digits. -/
theorem not_mem_blockHex {c : Char}
    (hc : c ∉ ['0', '1', '2', '3', '4', '5', '6', '7', '8', '9', 'a', 'b', 'c', 'd', 'e', 'f']) (block : List Byte) :
    c ∉ blockHex block := by
  intro hmem
  obtain ⟨b, -, hb⟩ := List.mem_flatMap.mp hmem
  rcases List.mem_pair.mp hb with rfl | rfl
  · exact hc (hexDigit_mem _)
  · exact hc (hexDigit_mem _)

theorem isWord_blockHex {block : List Byte} (h : block ≠ []) : IsWord (blockHex block) := by
  refine ⟨?_, not_mem_blockHex (by decide) block, not_mem_blockHex (by decide) block⟩
  obtain ⟨b, rest, rfl⟩ := List.exists_cons_of_ne_nil h
  exact List.cons_ne_nil _ _

/-- Without the comment sign the whole line is read. -/
theorem takeWhile_no_comment {chars : List Char} (h : ';' ∉ chars) :
    (chars.takeWhile fun c => c != ';') = chars := by
  rw [List.takeWhile_eq_self_iff]
  intro c hc
  simpa using ne_of_mem_of_not_mem hc h

variable (bs : Nat)

theorem parseLine_word {m : List Char} (h : IsWord m) : parseLine bs m = parseWords bs [m] := by
  obtain ⟨hne, hspace, hcomment⟩ := h
  rw [parseLine, takeWhile_no_comment hcomment, lineWords, List.splitOn_eq_singleton hspace]
  simp [hne]

theorem parseLine_two_words {m numeral : List Char} (hm : IsWord m) (hn : IsWord numeral) :
    parseLine bs (m ++ ' ' :: numeral) = parseWords bs [m, numeral] := by
  obtain ⟨hmne, hmspace, hmcomment⟩ := hm
  obtain ⟨hnne, hnspace, hncomment⟩ := hn
  have hcomment : ';' ∉ m ++ ' ' :: numeral := by simp [hmcomment, hncomment]
  rw [parseLine, takeWhile_no_comment hcomment, lineWords, List.splitOn_append_cons_self_of_not_mem hmspace,
    List.splitOn_eq_singleton hnspace]
  simp [hmne, hnne]

/-- The text of a command with an operand: its mnemonic, a space, the operand's numeral. -/
theorem text_of_operand {i : Instr} {m text : List Char} (hm : Instr.mnemonicChars i = some m) (hop : i.operand ≠ [])
    (htext : Line.text (.command i) = some text) : text = m ++ ' ' :: blockHex i.operand := by
  simpa [Line.text, hm, hop] using htext.symm

/-- A line of format `B`. -/
theorem parseLine_block {m : List Char} {block : List Byte} (hbs : 0 < bs) (hlen : block.length = bs)
    (hm : m = ['N', 'E', 'X', 'T'] ∨ m = ['N', 'E', 'X', 'T', 'L']) :
    parseLine bs (m ++ ' ' :: blockHex block) =
      .ok (some (.command (if m = ['N', 'E', 'X', 'T'] then .next block else .nextl block))) := by
  have hword : IsWord m := by rcases hm with rfl | rfl <;> simp [IsWord]
  have hne : block ≠ [] := List.ne_nil_of_length_pos (hlen.symm ▸ hbs)
  rw [parseLine_two_words bs hword (isWord_blockHex hne), parseWords, if_pos hm, parseHex_blockHex]
  simp [hlen]

/-- Settles O6: the text is one word for `RESET` and format `C`, the mnemonic and the numeral for format `B`; a reserved
code has no text. -/
theorem assemblerRoundTrip : Obligations.AssemblerRoundTrip := by
  intro bs line text hbs hwf htext
  cases line with
  | reset =>
    obtain rfl : ['R', 'E', 'S', 'E', 'T'] = text := Option.some.inj htext
    exact parseLine_word bs (by simp [IsWord])
  | command i =>
    cases i with
    | nop =>
      obtain rfl : ['N', 'O', 'P'] = text := Option.some.inj htext
      exact parseLine_word bs (by simp [IsWord])
    | init =>
      obtain rfl : ['I', 'N', 'I', 'T'] = text := Option.some.inj htext
      exact parseLine_word bs (by simp [IsWord])
    | next block =>
      have hwidth : block.length = bs := (BlockCommand.next block).length_eq (hwf _ rfl)
      have hne : block ≠ [] := List.ne_nil_of_length_pos (hwidth.symm ▸ hbs)
      obtain rfl := text_of_operand (i := .next block) rfl hne htext
      exact parseLine_block bs hbs hwidth (.inl rfl)
    | nextl block =>
      have hwidth : block.length = bs := (BlockCommand.nextl block).length_eq (hwf _ rfl)
      have hne : block ≠ [] := List.ne_nil_of_length_pos (hwidth.symm ▸ hbs)
      obtain rfl := text_of_operand (i := .nextl block) rfl hne htext
      exact parseLine_block bs hbs hwidth (.inr rfl)
    | reserved011 | reserved100 | reserved101 | reserved111 => cases htext

end Sys2Proof.Machine
end
